-- ==== Sys2Proof/Word.lean ====
section
/-! DEFINITION. The word types of the block: bytes of the two streams, flash words and flash addresses
(`00_scope.md` R7, R9; `20_memory.md` R40). Nothing here computes. -/

namespace Sys2Proof

/-- A byte of a stream, of the packet buffer or of a record (R7: "A byte is 8 bits"). -/
abbrev Byte := BitVec 8

/-- A 16-bit value: the CRC state (R16), `offset`, `bootloaderSize`, a data-EEPROM word (R46). -/
abbrev Word16 := BitVec 16

/-- A program-memory word, 24 bits (R45). -/
abbrev PmWord := BitVec 24

/-- A flash address, 24 bits, counted in address units (R43). -/
abbrev FlashAddr := BitVec 24

end Sys2Proof
end

