-- ==== Sys2Proof/Config.lean ====
section
/-! DEFINITION. What is fixed for the machine: the constants the source states, the parameters that
`00_scope.md` R6 says a model takes as arguments, and the free values the spec leaves open.
The constants are definitions; the parameters are the structure `Params`, carried in State so that every
statement over a state is a statement over their values; the values that the spec leaves OPEN at reset, and
the values of flash that no rule states, are opaque: nothing can compute them. -/

namespace Sys2Proof

/-! ## Constants the source states (R6) -/

/-- `FRAME_START`. -/
abbrev Config.frameStart : Byte := 0xAE
/-- `ESC_BYTE`. -/
abbrev Config.escByte : Byte := 0xAD
/-- `CRC_INIT_VALUE`. -/
abbrev Config.crcInitValue : Word16 := 0xFFFF
/-- `CRC_POLY_REFLECTED`. -/
abbrev Config.crcPolyReflected : Word16 := 0x8408
/-- `PROTOCOL_VERSION`. -/
abbrev Config.protocolVersion : Byte := 0x01
/-- `TX_MAXLEN`: the largest payload SEND accepts. -/
abbrev Config.txMaxlen : Nat := 128
/-- `ROW_WORDS_PM`. -/
abbrev Config.rowWordsPm : Nat := 32
/-- `ROW_UNITS_PM`. -/
abbrev Config.rowUnitsPm : Nat := 64
/-- `ROW_WORDS_EE`. -/
abbrev Config.rowWordsEe : Nat := 16
/-- `ROW_UNITS_EE`. -/
abbrev Config.rowUnitsEe : Nat := 32
/-- `ROW_BYTES_WIRE`: bytes of row data in a read response or a modify request. -/
abbrev Config.rowBytesWire : Nat := 96
/-- The payload length of the longest request, the modify record (R74). -/
abbrev Config.longestRequest : Nat := 100

/-! ## Parameters (R6) -/

/-- `NOREGION_POLICY` (R6, R159): what a modify code with neither region bit does. -/
inductive NoRegionPolicy where
  /-- no flash access, no response -/
  | ignore
  /-- no flash access, response `[0xFF − code, 0x00]` -/
  | respondStatus0
deriving DecidableEq, Repr, Inhabited

/-- Where one flash region lies: its first address and its length in address units. Both are per device model
and left to the platform (R40, R51); log entry 10. -/
structure Span where
  base  : Nat
  units : Nat
deriving DecidableEq, Repr

/-- The parameters of R6 that the source does not fix, what the device descriptor gives of the three regions (R40, R47, R51: "Fixed per
device model") and the identity word. No rule writes one. -/
structure Params where
  /-- `RX_MAXLEN`: the largest length byte accepted, and the size of `RXBUF` -/
  rxMaxlen : Nat
  /-- `ESC_IN_HEADER` -/
  escInHeader : Bool
  /-- `SIGNATURE[0..7]` -/
  signature : List Byte
  /-- `BL_SIZE` -/
  blSize : Word16
  /-- `BL_BASE` -/
  blBase : BitVec 32
  /-- `ST_ERASE_DONE` -/
  stEraseDone : Byte
  /-- `ST_ERROR_ERASE` -/
  stErrorErase : Byte
  /-- `ST_PROGRAM_DONE` -/
  stProgramDone : Byte
  /-- `ST_ERROR_PROGRAM` -/
  stErrorProgram : Byte
  /-- `NOREGION_POLICY` -/
  noRegion : NoRegionPolicy
  /-- `EE_DATA_LAYOUT`: for each of the 16 words of a data-EEPROM row, which data byte is its low and which its high byte -/
  eeLayout : List (Nat × Nat)
  /-- `START_CHECKS_VALID` -/
  startChecksValid : Bool
  /-- `CHANNEL_DEPTH` -/
  channelDepth : Nat
  /-- where program memory lies -/
  pmSpan : Span
  /-- where data EEPROM lies -/
  eeSpan : Span
  /-- where configuration memory lies, its one row (R40, R47); two address units for each word (DESIGN CHOICE, log entry 21) -/
  cfgSpan : Span
  /-- the validity mask of each configuration word: the bits that are not reserved (R40, R47) -/
  cfgMask : List Word16
  /-- the device identity word, at `0xFF0000` (R51, R185; log entry 28) -/
  deviceId : PmWord
deriving DecidableEq, Repr

/-- The eight single-bit masks of a byte. -/
def singleBitMasks : List Byte := [0x01, 0x02, 0x04, 0x08, 0x10, 0x20, 0x40, 0x80]

/-- What R51 fixes of the address map, with R9's whole rows: program memory starts at 0 and has 24-bit addresses, and the jump table
and the bootloader's code, from `BL_BASE` to `BL_BASE + BL_SIZE`, lie in it on whole rows (log entry 10). One validity mask for each
configuration word (R47), at two address units for each word (DESIGN CHOICE, log entry 21). -/
def Params.mapLegal (p : Params) : Bool :=
  decide (p.pmSpan.base = 0) && decide (p.pmSpan.units ≤ 2 ^ 24) && decide (p.blBase.toNat % Config.rowUnitsPm = 0) &&
  decide (2 * Config.rowUnitsPm ≤ p.blSize.toNat) && decide (p.blBase.toNat + p.blSize.toNat ≤ p.pmSpan.units) &&
  decide (2 * p.cfgMask.length = p.cfgSpan.units)

/-- The bounds R6 puts on the parameters: `100 ≤ RX_MAXLEN ≤ 255`; eight ASCII signature bytes; "four distinct single-bit
masks of an 8-bit byte"; an EEPROM layout that names 16 words within the 96 data bytes; and the address map's. -/
def Params.legal (p : Params) : Bool :=
  decide (100 ≤ p.rxMaxlen) && decide (p.rxMaxlen ≤ 255) &&
  decide (p.signature.length = 8) && p.signature.all (fun b => decide (b.toNat < 128)) &&
  [p.stEraseDone, p.stErrorErase, p.stProgramDone, p.stErrorProgram].all (fun m => singleBitMasks.contains m) &&
  decide ([p.stEraseDone, p.stErrorErase, p.stProgramDone, p.stErrorProgram].Nodup) &&
  decide (p.eeLayout.length = Config.rowWordsEe) &&
  p.eeLayout.all (fun ix => decide (ix.1 < Config.rowBytesWire) && decide (ix.2 < Config.rowBytesWire)) && p.mapLegal

/-! ## Values the spec leaves OPEN (R6, D12, D14, D15, D18, D20; N8): no value is chosen -/

/-- `SIGNATURE[k]`, an ASCII character. -/
opaque Config.signatureChar : Nat → BitVec 7
/-- Which of the sizes that R51 allows `BL_SIZE` is. -/
opaque Config.blCode : Nat
/-- Which of the rows that leave room for `BL_SIZE` in the 24-bit address space `BL_BASE` is. -/
opaque Config.blRow : Nat
/-- Which of the sizes that hold the bootloader program memory has. -/
opaque Config.pmBeyond : Nat
/-- Which bit of the status byte each of the four status fields is: an arrangement of the eight bit places, of which the
first four are used, so that the four masks are distinct (D14). -/
opaque Config.statusBits : Equiv.Perm (Fin 8)
/-- `NOREGION_POLICY`. -/
opaque Config.noRegionPolicy : NoRegionPolicy
/-- `EE_DATA_LAYOUT`: the data byte that is the low byte of word `i`. -/
opaque Config.eeLowByte : Nat → Fin 96
/-- `EE_DATA_LAYOUT`: the data byte that is the high byte of word `i`. -/
opaque Config.eeHighByte : Nat → Fin 96
/-- `CHANNEL_DEPTH`. -/
opaque Config.channelDepth : Nat
/-- First address of data EEPROM. -/
opaque Config.eeBase : Nat
/-- Address units of data EEPROM. -/
opaque Config.eeUnits : Nat
/-- First address of configuration memory. -/
opaque Config.cfgBase : Nat
/-- How many words the one row of configuration memory has. -/
opaque Config.cfgWords : Nat
/-- The validity mask of configuration word `i`. -/
opaque Config.cfgMaskWord : Nat → Word16
/-- The device identity word. -/
opaque Config.deviceId : PmWord

/-- The mask of status field `k` (0 to 3). -/
def Config.statusMask (k : Fin 8) : Byte := (1 : Byte) <<< (Config.statusBits k).val

/-- `BL_SIZE`: any 16-bit size from the two rows of the jump table on (R51). -/
def Config.blSize : Nat := 128 + Config.blCode % 65408

/-- `BL_BASE`: any row with room for `BL_SIZE` (R51). -/
def Config.blBase : Nat := 64 * (Config.blRow % ((16777216 - Config.blSize) / 64 + 1))

/-- Address units of program memory: any 24-bit size that holds the bootloader (R51). -/
def Config.pmUnits : Nat :=
  Config.blBase + Config.blSize + Config.pmBeyond % (16777216 - (Config.blBase + Config.blSize) + 1)

/-- The parameters right after reset: the spec's own defaults where R6 gives one (`RX_MAXLEN` 128, `ESC_IN_HEADER` true,
`START_CHECKS_VALID` false), opaque where R6 says OPEN. -/
def Config.params : Params where
  rxMaxlen := 128
  escInHeader := true
  signature := (List.range 8).map fun k => (Config.signatureChar k).zeroExtend 8
  blSize := BitVec.ofNat 16 Config.blSize
  blBase := BitVec.ofNat 32 Config.blBase
  stEraseDone := Config.statusMask 0
  stErrorErase := Config.statusMask 1
  stProgramDone := Config.statusMask 2
  stErrorProgram := Config.statusMask 3
  noRegion := Config.noRegionPolicy
  eeLayout := (List.range 16).map fun i => ((Config.eeLowByte i).val, (Config.eeHighByte i).val)
  startChecksValid := false
  channelDepth := Config.channelDepth
  pmSpan := ⟨0, Config.pmUnits⟩
  eeSpan := ⟨Config.eeBase, Config.eeUnits⟩
  cfgSpan := ⟨Config.cfgBase, 2 * Config.cfgWords⟩
  cfgMask := (List.range Config.cfgWords).map Config.cfgMaskWord
  deviceId := Config.deviceId

/-! ## Free values of flash -/

/-- What the flash port answers for word `i` of the read numbered `draw`, of width `w`: in no implemented memory ("stable
between modifies is not promised either", U9) or past a 64 K boundary ("any value", U8). -/
opaque Config.unstatedWord : (w draw i : Nat) → BitVec w

/-- What the flash port answers at address `a` of an implemented memory where no rule gives the word or a bit of it, after `cycles`
erase and write cycles: two reads with no modify between them return the same (R44). -/
opaque Config.stableWord : (w cycles a : Nat) → BitVec w

/-- What an erase or write cycle leaves in word `i`, cycle numbered `draw` (R169: "the row may hold any value", "a free draw"). -/
opaque Config.cycleWord : (w draw i : Nat) → BitVec w

end Sys2Proof
end

