-- ==== Sys2Proof/Machine/Crc.lean ====
section
/-! DEFINITION. The CRC-16 generator (`40_crc16.md` R90 to R93): one 16-bit state, four operations. -/

namespace Sys2Proof.Machine

/-- CRC_INIT, R90. -/
def crcInit : Word16 := Config.crcInitValue

/-- One of the eight iterations of R91: the bit tested is the one shifted out. -/
def crcShift (t : Word16) : Word16 :=
  if t.getLsbD 0 then (t >>> 1) ^^^ Config.crcPolyReflected else t >>> 1

/-- CRC_UPDATE(s, b), R91: "XOR byte into low 8 bits of state", then eight iterations. -/
def crcUpdate (s : Word16) (b : Byte) : Word16 :=
  crcShift (crcShift (crcShift (crcShift (crcShift (crcShift (crcShift (crcShift (s ^^^ b.zeroExtend 16))))))))

/-- CRC16(p), R92: bytes first to last, no final XOR. -/
def crc16 (p : List Byte) : Word16 := p.foldl crcUpdate crcInit

/-- CRC_CHECK, R93, on the state after the CRC high byte. -/
def crcAccepts (s : Word16) : Bool := decide (s = 0)

/-- The table-driven form of R95: `(s >> 8) xor T[(s xor b) and 0xFF]` with `T[i] = CRC_UPDATE(0, i)`. -/
def crcUpdateByTable (s : Word16) (b : Byte) : Word16 :=
  (s >>> 8) ^^^ crcUpdate 0 (s.setWidth 8 ^^^ b)

end Sys2Proof.Machine
end

