-- ==== Sys2Proof/Syntax.lean ====
section
/-! DEFINITION. The instructions: one constructor per row of `spec/opcode_table.json`, in the table's order.
Twelve request records (a command code and its fields, R70 to R76, R159), four response records, four wire symbols and the
frame (R60, R61). A request carries its whole code byte where the table leaves code bits free, since the response
complements all of it (R75). -/

namespace Sys2Proof

/-- The layer of the encoding an instruction belongs to (`30_encoding.md`: the record layer in its two directions, the escape
code, the frame). -/
inductive Layer where
  | request
  | response
  | symbol
  | frame
deriving DecidableEq, Repr

/-- The instructions of the block. `data` is the 96-byte row data of a modify request (R74); `offset` is address bits 15:0
and `tblpag` address bits 23:16 (R72). -/
inductive Instr where
  /-- HANDSHAKE, R132 -/
  | handshake
  /-- READ_ROW, R136 -/
  | readRow (tblpag : Byte) (offset : Word16)
  /-- START_APP, R146 -/
  | startApp
  /-- ERASE_PM, R151 -/
  | erasePm (code tblpag : Byte) (offset : Word16) (data : List Byte)
  /-- ERASE_PM_FORCE, R152 -/
  | erasePmForce (code tblpag : Byte) (offset : Word16) (data : List Byte)
  /-- PROGRAM_PM, R153 -/
  | programPm (code tblpag : Byte) (offset : Word16) (data : List Byte)
  /-- PROGRAM_PM_FORCE, R154 -/
  | programPmForce (code tblpag : Byte) (offset : Word16) (data : List Byte)
  /-- ERASE_EE, R155 -/
  | eraseEe (code tblpag : Byte) (offset : Word16) (data : List Byte)
  /-- ERASE_EE_FORCE, R156 -/
  | eraseEeForce (code tblpag : Byte) (offset : Word16) (data : List Byte)
  /-- PROGRAM_EE, R157 -/
  | programEe (code tblpag : Byte) (offset : Word16) (data : List Byte)
  /-- PROGRAM_EE_FORCE, R158 -/
  | programEeForce (code tblpag : Byte) (offset : Word16) (data : List Byte)
  /-- NOREGION, R159 -/
  | noRegion (code tblpag : Byte) (offset : Word16) (data : List Byte)
  /-- HANDSHAKE_RSP, R71 -/
  | handshakeRsp (version : Byte) (signature : List Byte) (size : Word16) (base : BitVec 32)
  /-- READ_ROW_RSP, R73 -/
  | readRowRsp (words : List PmWord)
  /-- START_APP_RSP, R76 -/
  | startAppRsp
  /-- MODIFY_RSP, R75; `code` is the request's code byte -/
  | modifyRsp (code status : Byte)
  /-- FRAME_START, R61 -/
  | frameStart
  /-- ESC_AD, R61 -/
  | escAd
  /-- ESC_AE, R61 -/
  | escAe
  /-- LITERAL, R61 -/
  | literal (b : Byte)
  /-- FRAME, R60 -/
  | frame (payload : List Byte)
deriving DecidableEq, Repr

/-- The layer of each instruction. -/
def Instr.layer : Instr → Layer
  | .handshake => .request
  | .readRow _ _ => .request
  | .startApp => .request
  | .erasePm _ _ _ _ => .request
  | .erasePmForce _ _ _ _ => .request
  | .programPm _ _ _ _ => .request
  | .programPmForce _ _ _ _ => .request
  | .eraseEe _ _ _ _ => .request
  | .eraseEeForce _ _ _ _ => .request
  | .programEe _ _ _ _ => .request
  | .programEeForce _ _ _ _ => .request
  | .noRegion _ _ _ _ => .request
  | .handshakeRsp _ _ _ _ => .response
  | .readRowRsp _ => .response
  | .startAppRsp => .response
  | .modifyRsp _ _ => .response
  | .frameStart => .symbol
  | .escAd => .symbol
  | .escAe => .symbol
  | .literal _ => .symbol
  | .frame _ => .frame

end Sys2Proof
end

