-- ==== Sys2Proof/WellFormed.lean ====
section
/-! DEFINITION. Which terms of Instr stand for an encoding of the table: the code byte matches its row's mask and match
(`opcode_table.json`, R78), the data field has 96 bytes (R74), a response has its record's length (R71, R73), a literal is none
of the two reserved bytes (R61), a frame has 1 to 128 payload bytes (R60). -/

namespace Sys2Proof

/-- A code byte in the row `(mask, mtch)` of the table. -/
def codeMatches (mask mtch code : Byte) : Bool := decide (code &&& mask = mtch)

/-- A modify record whose code is in the row: 96 data bytes (R74). -/
def modifyWellFormed (mask mtch code : Byte) (data : List Byte) : Bool :=
  codeMatches mask mtch code && decide (data.length = Config.rowBytesWire)

/-- The codes of the fixed commands HANDSHAKE, READ_ROW, START_APP (R78, priorities 1 to 3). -/
def fixedCommandCode (code : Byte) : Bool := decide (code = 0x00) || decide (code = 0x01) || decide (code = 0x03)

/-- Well-formedness of an instruction. -/
def Instr.wellFormed : Instr → Bool
  | .handshake => true
  | .readRow _ _ => true
  | .startApp => true
  | .erasePm code _ _ data => modifyWellFormed 0x0B 0x08 code data
  | .erasePmForce code _ _ data => modifyWellFormed 0x0B 0x09 code data
  | .programPm code _ _ data => modifyWellFormed 0x0B 0x0A code data
  | .programPmForce code _ _ data => modifyWellFormed 0x0B 0x0B code data
  | .eraseEe code _ _ data => modifyWellFormed 0x1B 0x10 code data
  | .eraseEeForce code _ _ data => modifyWellFormed 0x1B 0x11 code data
  | .programEe code _ _ data => modifyWellFormed 0x1B 0x12 code data
  | .programEeForce code _ _ data => modifyWellFormed 0x1B 0x13 code data
  | .noRegion code _ _ data => modifyWellFormed 0x18 0x00 code data && !fixedCommandCode code
  | .handshakeRsp _ signature _ _ => decide (signature.length = 8)
  | .readRowRsp words => decide (words.length = Config.rowWordsPm)
  | .startAppRsp => true
  | .modifyRsp code _ => !fixedCommandCode code
  | .frameStart => true
  | .escAd => true
  | .escAe => true
  | .literal b => decide (b ≠ Config.escByte) && decide (b ≠ Config.frameStart)
  | .frame payload => decide (1 ≤ payload.length) && decide (payload.length ≤ Config.txMaxlen)

end Sys2Proof
end

