-- ==== Sys2Proof/Decode.lean ====
section
/-! DEFINITION. The decoders and the encoder (`30_encoding.md` R60 to R80). Each decoder is total and rejects by name.
`decodeRaw` is the receiver's view of one raw byte (R111); `decodeRequest` the dispatcher's view of the packet buffer (R78, R130,
R150); `decodeResponse` a response record; `decodeFrame` a whole frame. `encode` writes an instruction from the same tables. -/

namespace Sys2Proof

/-- Why a byte sequence is no instruction. -/
inductive DecodeError where
  /-- there is no byte -/
  | empty
  /-- the bytes end before the record, the escape pair or the frame does -/
  | truncated
  /-- bytes follow the end of the symbol, the response record or the frame -/
  | trailing
  /-- `0xAD` followed by a byte other than `0x00`, `0x01` (R79) -/
  | illegalEscape (r : Byte)
  /-- a raw `0xAE` inside a frame, not after `0xAD` (R79) -/
  | markerInside
  /-- the first raw byte of the frame is not `0xAE` (R60) -/
  | noMarker
  /-- decoded length byte 0 (R79) -/
  | lengthZero
  /-- decoded length byte above the maximum (R79) -/
  | lengthTooLong (d : Byte)
  /-- the residue over payload and CRC field is not zero (R93) -/
  | crcMismatch
deriving DecidableEq, Repr

/-! ## Byte order (R48, R77) -/

/-- A 16-bit field from its two bytes, low byte first (R48; D8). -/
def u16OfBytes (lo hi : Byte) : Word16 := hi ++ lo

/-- A 32-bit field from its four bytes, lowest first (R48; D8). -/
def u32OfBytes (b0 b1 b2 b3 : Byte) : BitVec 32 := ((b3 ++ b2) ++ (b1 ++ b0) : BitVec 32)

/-- A program-memory word from its bytes "(low,high,upper)" (R48, R77). -/
def pmWordOfBytes (low high upper : Byte) : PmWord := ((upper ++ high) ++ low : BitVec 24)

/-- The two bytes of a 16-bit value, low first. -/
def bytesOfU16 (v : Word16) : List Byte := [v.extractLsb' 0 8, v.extractLsb' 8 8]

/-- The four bytes of a 32-bit value, lowest first. -/
def bytesOfU32 (v : BitVec 32) : List Byte :=
  [v.extractLsb' 0 8, v.extractLsb' 8 8, v.extractLsb' 16 8, v.extractLsb' 24 8]

/-- The three bytes of a program-memory word: low, high, upper (R73). -/
def bytesOfPmWord (v : PmWord) : List Byte := [v.extractLsb' 0 8, v.extractLsb' 8 8, v.extractLsb' 16 8]

/-- Row data as program-memory words, three bytes each (R77, R166). -/
def pmWordsOfBytes : List Byte → List PmWord
  | low :: high :: upper :: rest => pmWordOfBytes low high upper :: pmWordsOfBytes rest
  | _ => []

/-! ## The record layer: requests -/

/-- The modify codes by their bits (R150 to R159): bit 3 `PROGRAM_MEMORY` is tested before bit 4 `DATA_EEPROM`; bit 1 is
`PROGRAM`, bit 0 `FORCE`; bits 2, 5, 6, 7 are not examined. -/
def decodeModify (code tblpag : Byte) (offset : Word16) (data : List Byte) : Instr :=
  if code.getLsbD 3 then
    match code.getLsbD 1, code.getLsbD 0 with
    | false, false => .erasePm code tblpag offset data
    | false, true => .erasePmForce code tblpag offset data
    | true, false => .programPm code tblpag offset data
    | true, true => .programPmForce code tblpag offset data
  else if code.getLsbD 4 then
    match code.getLsbD 1, code.getLsbD 0 with
    | false, false => .eraseEe code tblpag offset data
    | false, true => .eraseEeForce code tblpag offset data
    | true, false => .programEe code tblpag offset data
    | true, true => .programEeForce code tblpag offset data
  else .noRegion code tblpag offset data

/-- The request record that starts at the first byte of `p`, in the priority order of R78. Bytes after the record are ignored
(R130). A `p` that ends before the record's last field is rejected: the dispatcher gives the whole packet buffer, so that the
fields of a short request are read from what stands there (R15, R130). -/
def decodeRequest (p : List Byte) : Except DecodeError Instr :=
  match p with
  | [] => .error .empty
  | code :: body =>
    if code = 0x00 then .ok .handshake
    else if code = 0x01 then
      match body with
      | tblpag :: lo :: hi :: _ => .ok (.readRow tblpag (u16OfBytes lo hi))
      | _ => .error .truncated
    else if code = 0x03 then .ok .startApp
    else
      match body with
      | tblpag :: lo :: hi :: rest =>
        if rest.length < Config.rowBytesWire then .error .truncated
        else .ok (decodeModify code tblpag (u16OfBytes lo hi) (rest.take Config.rowBytesWire))
      | _ => .error .truncated

/-! ## The record layer: responses -/

/-- A response record (R71, R73, R75, R76), its length exact as the host expects it (R186). -/
def decodeResponse (p : List Byte) : Except DecodeError Instr :=
  match p with
  | [] => .error .empty
  | code :: body =>
    if code = 0xFF then
      match body with
      | ver :: s0 :: s1 :: s2 :: s3 :: s4 :: s5 :: s6 :: s7 :: z0 :: z1 :: b0 :: b1 :: b2 :: b3 :: rest =>
        if rest = [] then
          .ok (.handshakeRsp ver [s0, s1, s2, s3, s4, s5, s6, s7] (u16OfBytes z0 z1) (u32OfBytes b0 b1 b2 b3))
        else .error .trailing
      | _ => .error .truncated
    else if code = 0xFE then
      if body.length < Config.rowBytesWire then .error .truncated
      else if Config.rowBytesWire < body.length then .error .trailing
      else .ok (.readRowRsp (pmWordsOfBytes body))
    else if code = 0xFC then
      if body = [] then .ok .startAppRsp else .error .trailing
    else
      match body with
      | [] => .error .truncated
      | [status] => .ok (.modifyRsp (0xFF - code) status)
      | _ => .error .trailing

/-! ## The wire layer -/

/-- What one raw byte is to the receiver (R111). -/
inductive RawByte where
  /-- the last raw byte of a wire symbol -/
  | symbol (i : Instr)
  /-- `0xAD` outside an escape: the first byte of a pair (R114) -/
  | escapePrefix
  /-- an illegal follow byte (R113) -/
  | illegalFollow
deriving DecidableEq, Repr

/-- R111: "The tests are made in this order and the first that applies decides": escape pending, marker, prefix, anything else. -/
def decodeRaw (escPending : Bool) (r : Byte) : RawByte :=
  if escPending then
    if r = 0x00 then .symbol .escAd
    else if r = 0x01 then .symbol .escAe
    else .illegalFollow
  else if r = Config.frameStart then .symbol .frameStart
  else if r = Config.escByte then .escapePrefix
  else .symbol (.literal r)

/-- The decoded byte a wire symbol yields (R61); the marker yields none. -/
def Instr.decodedByte : Instr → Option Byte
  | .literal b => some b
  | .escAd => some Config.escByte
  | .escAe => some Config.frameStart
  | _ => none

/-- Exactly one wire symbol, from its raw bytes (R61). -/
def decodeSymbol (raw : List Byte) : Except DecodeError Instr :=
  match raw with
  | [] => .error .empty
  | r :: rest =>
    match decodeRaw false r with
    | .symbol i => if rest = [] then .ok i else .error .trailing
    | .illegalFollow => .error (.illegalEscape r)
    | .escapePrefix =>
      match rest with
      | [] => .error .truncated
      | x :: rest' =>
        match decodeRaw true x with
        | .symbol i => if rest' = [] then .ok i else .error .trailing
        | _ => .error (.illegalEscape x)

/-- The decoded bytes of raw bytes that stand after a marker (R61: "Decoding is the exact inverse"). -/
def unescape : List Byte → Except DecodeError (List Byte)
  | [] => .ok []
  | r :: rest =>
    if r = Config.frameStart then .error .markerInside
    else if r = Config.escByte then
      match rest with
      | [] => .error .truncated
      | x :: rest' =>
        if x = 0x00 then (unescape rest').map (Config.escByte :: ·)
        else if x = 0x01 then (unescape rest').map (Config.frameStart :: ·)
        else .error (.illegalEscape x)
    else (unescape rest).map (r :: ·)

/-- The payload of the decoded bytes after a marker: length byte, payload, CRC field (R60), with the checks of R79 in the order
of arrival. -/
def payloadOfDecoded (decoded : List Byte) : Except DecodeError (List Byte) :=
  match decoded with
  | [] => .error .truncated
  | n :: body =>
    if n = 0 then .error .lengthZero
    else if Config.txMaxlen < n.toNat then .error (.lengthTooLong n)
    else if body.length < n.toNat + 2 then .error .truncated
    else if n.toNat + 2 < body.length then .error .trailing
    else if Machine.crcAccepts (Machine.crc16 body) then .ok (body.take n.toNat)
    else .error .crcMismatch

/-- Exactly one whole frame, from its raw bytes (R60). -/
def decodeFrame (raw : List Byte) : Except DecodeError Instr :=
  match raw with
  | [] => .error .empty
  | r :: rest =>
    if r = Config.frameStart then ((unescape rest).bind payloadOfDecoded).map .frame
    else .error .noMarker

/-- The decoder of each layer. -/
def decode (layer : Layer) (bytes : List Byte) : Except DecodeError Instr :=
  match layer with
  | .request => decodeRequest bytes
  | .response => decodeResponse bytes
  | .symbol => decodeSymbol bytes
  | .frame => decodeFrame bytes

/-! ## The encoder -/

/-- ESC_ENCODE(d), R100. -/
def escEncode (d : Byte) : List Byte :=
  if d = Config.escByte then [Config.escByte, 0x00]
  else if d = Config.frameStart then [Config.escByte, 0x01]
  else [d]

/-- The raw bytes of the frame of payload `p` (R60, R102): marker, escaped length, escaped payload, escaped CRC low then high. -/
def frameBytes (p : List Byte) : List Byte :=
  Config.frameStart ::
    (escEncode (BitVec.ofNat 8 p.length) ++ p.flatMap escEncode ++ (bytesOfU16 (Machine.crc16 p)).flatMap escEncode)

/-- A modify record (R74). -/
def modifyRecord (code tblpag : Byte) (offset : Word16) (data : List Byte) : List Byte :=
  code :: tblpag :: (bytesOfU16 offset ++ data)

/-- The response code, the one's complement of the request code (R67). -/
def responseCode (code : Byte) : Byte := 0xFF - code

/-- The bytes of an instruction: a record's payload, a symbol's or a frame's raw bytes. -/
def encode : Instr → List Byte
  | .handshake => [0x00]
  | .readRow tblpag offset => 0x01 :: tblpag :: bytesOfU16 offset
  | .startApp => [0x03]
  | .erasePm code tblpag offset data => modifyRecord code tblpag offset data
  | .erasePmForce code tblpag offset data => modifyRecord code tblpag offset data
  | .programPm code tblpag offset data => modifyRecord code tblpag offset data
  | .programPmForce code tblpag offset data => modifyRecord code tblpag offset data
  | .eraseEe code tblpag offset data => modifyRecord code tblpag offset data
  | .eraseEeForce code tblpag offset data => modifyRecord code tblpag offset data
  | .programEe code tblpag offset data => modifyRecord code tblpag offset data
  | .programEeForce code tblpag offset data => modifyRecord code tblpag offset data
  | .noRegion code tblpag offset data => modifyRecord code tblpag offset data
  | .handshakeRsp version signature size base =>
    0xFF :: version :: (signature ++ bytesOfU16 size ++ bytesOfU32 base)
  | .readRowRsp words => 0xFE :: words.flatMap bytesOfPmWord
  | .startAppRsp => [0xFC]
  | .modifyRsp code status => [responseCode code, status]
  | .frameStart => [Config.frameStart]
  | .escAd => [Config.escByte, 0x00]
  | .escAe => [Config.escByte, 0x01]
  | .literal b => [b]
  | .frame payload => frameBytes payload

/-! ## Words as `opcode_table.json` numbers them -/

/-- The layer a table word is read in. One code byte may stand in three layers, so the rows that fix the whole byte are asked
first: the marker, then the three fixed response codes, and every other byte is a request code (R78). A 16-bit word is an escape
pair (log entry 14). -/
def tableLayer (nbits w : Nat) : Layer :=
  if 8 < nbits then .symbol
  else if w = 0xAE then .symbol
  else if w = 0xFF || w = 0xFE || w = 0xFC then .response
  else .request

/-- The bytes of a table word: one code byte and zeros up to the record's length, or the two raw bytes of an escape pair, the
first of them in bits 15:8 as the table writes it (`0xAD00` is `AD 00`). -/
def tableBytes (nbits w : Nat) : List Byte :=
  match tableLayer nbits w with
  | .symbol => if 8 < nbits then [BitVec.ofNat 8 (w / 256), BitVec.ofNat 8 w] else [BitVec.ofNat 8 w]
  | .response => BitVec.ofNat 8 w ::
      List.replicate (if w = 0xFF then 15 else if w = 0xFE then Config.rowBytesWire else 0) 0
  | .request => BitVec.ofNat 8 w :: List.replicate (Config.longestRequest - 1) 0
  | .frame => []

/-- The instruction the decoder reads from a word of the opcode table; none for a width that is no row's. -/
def decodeTableWord (nbits w : Nat) : Option Instr :=
  if nbits = 8 ∨ nbits = 16 then (decode (tableLayer nbits w) (tableBytes nbits w)).toOption else none

end Sys2Proof
end

