-- ==== Sys2Proof/Machine/State.lean ====
section
/-! DEFINITION. Everything the spec gives the machine, as plain data: the ten items of `10_state.md` R10, the two byte streams of
the serial channel and the flash regions (`20_memory.md` R40), the parameters of `00_scope.md` R6. -/

namespace Sys2Proof.Machine

/-- `RXST`, the receive sequencer (R11). -/
inductive RxState where
  | header
  | length
  | data
  | crcLsb
  | crcMsb
deriving DecidableEq, Repr

/-- `RUN` (R19). -/
inductive RunMode where
  | boot
  | app
deriving DecidableEq, Repr

/-- The protocol-local events (R211 to R216), the entries of `EVLOG` (R210). -/
inductive Event where
  /-- R211 -/
  | escapeError (r : Byte)
  /-- R212 -/
  | lengthZero
  /-- R213 -/
  | lengthTooLong (d : Byte)
  /-- R214 -/
  | crcMismatch (residue : Word16)
  /-- R215 -/
  | resync (abandoned : RxState)
  /-- R216 -/
  | ignoredBeforeHandshake (code : Byte)
deriving DecidableEq, Repr

/-- A flash region's words by address, sparse: addresses strictly rising, no entry all-ones, since an unlisted word reads as
all-ones ("unprogrammed flash reads as all-ones", R45, R46). The unit is the spec's, the word (R40). -/
abbrev Memory (w : Nat) := List (Nat × BitVec w)

/-- What an unlisted address of a region reads as: the erased pattern (R45, R46). -/
def erasedWord (w : Nat) : BitVec w := BitVec.allOnes w

/-- Every address of the list is above `lo`, strictly rising, and no entry is the erased word. -/
def Memory.wfAbove {w : Nat} : Nat → Memory w → Bool
  | _, [] => true
  | lo, (a, v) :: rest => decide (lo ≤ a) && decide (v ≠ erasedWord w) && Memory.wfAbove (a + 1) rest

/-- The canonical form. -/
def Memory.wf {w : Nat} (m : Memory w) : Bool := Memory.wfAbove 0 m

/-- What the flash controller does with one coming erase or write cycle (R169). The model's own: log entry 8. -/
inductive CycleResult (w : Nat) where
  /-- "the flash is good": the row holds what the cycle was asked to leave -/
  | good
  /-- the row's words are left with these values, whatever the cycle was asked -/
  | leaves (words : List (BitVec w))
deriving DecidableEq, Repr

/-- One flash region as the flash port holds it. `script` names the results of the next cycles, and where it is empty a cycle's
result is a free value; `draws` numbers the free values, and `cycles` counts the cycles so far (log entries 8, 9). -/
structure Flash (w : Nat) where
  cells  : Memory w
  script : List (CycleResult w)
  draws  : Nat
  cycles : Nat
deriving DecidableEq, Repr

/-- Why the machine stops with a fault. -/
inductive Fault where
  /-- A byte of `RXBUF` outside `RXBUF[0 .. RX_MAXLEN − 1]` would be written by the framer in `DATA`, or read by the
  dispatcher (R8: `0 ≤ i < RX_MAXLEN`). No such byte exists. Raised by `dataByte` and `dispatch`, in states no run reaches (R123 (d)).
  Safe: log entry 16. -/
  | bufferIndex (i : Nat)
deriving DecidableEq, Repr

/-- Why an instruction is given no meaning. -/
inductive Refusal where
  /-- An instruction not yet modelled, by its name in the table. Raised by no arm of the finished model. Safe. -/
  | notModelled (mnemonic : String)
  /-- SEND of a payload of `n` bytes outside 1 to 128 (R101: "a model refuses any other call"). Raised by FRAME and the response
  records on ill-formed terms only. Safe. -/
  | sendLength (n : Nat)
  /-- START_APP with `START_CHECKS_VALID` true and the firmware-valid flag all-ones: what the device does is not defined, "a model
  refuses that case" (U13, R146). Safe: log entry 12. -/
  | startFlagInvalid
deriving DecidableEq, Repr

/-- The state of the machine. -/
structure State where
  /-- `RXST` (R11) -/
  rxst : RxState
  /-- `ESC`, escape pending (R12) -/
  esc : Bool
  /-- `RXLEN` (R13) -/
  rxlen : Byte
  /-- `RXCNT` (R14) -/
  rxcnt : Byte
  /-- `RXBUF[0 .. RX_MAXLEN − 1]` (R15) -/
  rxbuf : List Byte
  /-- `RXCRC` (R16) -/
  rxcrc : Word16
  /-- `TXCRC` (R17) -/
  txcrc : Word16
  /-- `HS`, handshake done (R18) -/
  hs : Bool
  /-- `RUN` (R19) -/
  run : RunMode
  /-- `EVLOG`, model-only, oldest first (R10, R210) -/
  evlog : List Event
  /-- `RXS`, the received bytes waiting in the serial channel, oldest first (R40, R41) -/
  rxs : List Byte
  /-- `TXS`, the bytes transmitted so far, oldest first (R40, R41) -/
  txs : List Byte
  /-- `PM`, program memory (R40, R45) -/
  pm : Flash 24
  /-- `EE`, data EEPROM (R40, R46) -/
  ee : Flash 16
  /-- `CFG`, configuration memory: READ_ROW can read it, no command modifies it (R40, R47) -/
  cfg : Memory 16
  /-- the parameters (R6); no step writes them -/
  par : Params
deriving DecidableEq, Repr

/-- A region with nothing listed. -/
def Flash.erased (w : Nat) : Flash w := ⟨[], [], 0, 0⟩

/-- The machine right after reset (R28, R240). The registers R28 leaves unspecified are 0 (log entry 1), the flash is erased
(log entry 2), the channel is empty in both directions, the parameters are `Config.params` (log entry 3). -/
def State.reset : State where
  rxst := .header
  esc := false
  rxlen := 0
  rxcnt := 0
  rxbuf := List.replicate Config.params.rxMaxlen 0
  rxcrc := 0
  txcrc := 0
  hs := false
  run := .boot
  evlog := []
  rxs := []
  txs := []
  pm := Flash.erased 24
  ee := Flash.erased 16
  cfg := []
  par := Config.params

end Sys2Proof.Machine
end

