-- ==== Sys2Proof/Machine/Flags.lean ====
section
/-! DEFINITION. The flags: `ESC`, `HS`, `RUN` (`10_state.md` R23), the four fields of the modify status byte
(`44_flash_modify_engine.md` R161) and the firmware-valid flag (`45_host_peer.md` R200). The block has no arithmetic condition codes. -/

namespace Sys2Proof.Machine

/-- The escape flag an `0xAD` leaves outside an escape (R114): pending, but not in `HEADER` when `ESC_IN_HEADER` is false. -/
def escapeFlagAfterPrefix (s : State) : Bool := decide (s.rxst ≠ .header) || s.par.escInHeader

/-- Status byte with `ERASE_DONE` set (R161, R163). -/
def withEraseDone (p : Params) (status : Byte) : Byte := status ||| p.stEraseDone

/-- Status byte with `ERROR_ERASE` set (R161, R163). -/
def withErrorErase (p : Params) (status : Byte) : Byte := status ||| p.stErrorErase

/-- Status byte with `PROGRAM_DONE` set (R161, R164). -/
def withProgramDone (p : Params) (status : Byte) : Byte := status ||| p.stProgramDone

/-- Status byte with `ERROR_PROGRAM` set (R161, R164). -/
def withErrorProgram (p : Params) (status : Byte) : Byte := status ||| p.stErrorProgram

/-- The firmware-valid flag read as invalid: the first jump-table word is all-ones (R9, R200). -/
def flagInvalid (firstJumpTableWord : PmWord) : Bool := decide (firstJumpTableWord = erasedWord 24)

/-- The mode names of R225. -/
inductive Mode where
  | unconnected
  | connected
  | started
deriving DecidableEq, Repr

/-- The mode, told by `HS` and `RUN` (R225). -/
def State.mode (s : State) : Mode :=
  match s.run, s.hs with
  | .app, _ => .started
  | .boot, true => .connected
  | .boot, false => .unconnected

end Sys2Proof.Machine
end

