-- ==== Sys2Proof/Machine/Operands.lean ====
section
/-! DEFINITION. The operand forms: the 24-bit flash address of a request, the addresses of a row's words, the words of a
modify request's data field for each region (`20_memory.md` R43, R44; `30_encoding.md` R77; `44_flash_modify_engine.md` R166). -/

namespace Sys2Proof.Machine

/-- `addr = {tblpag, offset}` (R43, R77; D10; log entry 5). -/
def flashAddr (tblpag : Byte) (offset : Word16) : FlashAddr := (tblpag ++ offset : BitVec 24)

/-- The address of word `i` of a row: `addr + 2·i`, modulo 2^24 (R44). -/
def wordAddr (addr : FlashAddr) (i : Nat) : Nat := (addr.toNat + 2 * i) % 2 ^ 24

/-- Whether an address lies in a region. -/
def inSpan (span : Span) (a : Nat) : Bool := decide (span.base ≤ a) && decide (a < span.base + span.units)

/-- Whether a region has a word at an address: one word per two address units, counted from the region's base. R40 gives that spacing
for program memory and data EEPROM; that configuration words have it too is a DESIGN CHOICE (log entry 21). -/
def hasWord (span : Span) (a : Nat) : Bool := inSpan span a && decide ((a - span.base) % 2 = 0)

/-- Whether word `i` of a row at `addr` stands before `offset = 0xFFFF` is passed (R44; U8). -/
def beforeWrap (addr : FlashAddr) (i : Nat) : Bool := decide (addr.toNat % 2 ^ 16 + 2 * i < 2 ^ 16)

/-- Whether word `i` of a row at `addr` is a word of the region's array (R44; U8, U9; log entry 9). -/
def wordStated (span : Span) (addr : FlashAddr) (i : Nat) : Bool := beforeWrap addr i && hasWord span (wordAddr addr i)

/-- Whether `addr` is a row of the region: at a multiple of the row size "within their region" (R49), the whole row inside, and not
past `offset = 0xFFFF` (U8). -/
def rowStated (span : Span) (units : Nat) (addr : FlashAddr) : Bool :=
  decide (span.base ≤ addr.toNat) && decide ((addr.toNat - span.base) % units = 0) &&
  decide (addr.toNat + units ≤ span.base + span.units) && decide (addr.toNat % 2 ^ 16 + units ≤ 2 ^ 16)

/-- The words a modify request asks of a program-memory row: word `i` is `{data[3i+2], data[3i+1], data[3i]}` (R166). -/
def pmWanted (data : List Byte) : List PmWord :=
  (List.range Config.rowWordsPm).map fun i =>
    pmWordOfBytes (data.getD (3 * i) 0) (data.getD (3 * i + 1) 0) (data.getD (3 * i + 2) 0)

/-- The words a modify request asks of a data-EEPROM row: those `EE_DATA_LAYOUT` picks from the data (R166; D18; log entry 18). -/
def eeWanted (layout : List (Nat × Nat)) (data : List Byte) : List Word16 :=
  layout.map fun ix => u16OfBytes (data.getD ix.1 0) (data.getD ix.2 0)

end Sys2Proof.Machine
end

