-- ==== Sys2Proof/Machine/Ops.lean ====
section
/-! DEFINITION. The named operations every meaning is written over: events, the packet buffer, SEND, flash words and rows, one
flash cycle, and what the outside world may do (the serial channel, reset). -/

namespace Sys2Proof.Machine

/-! ## Events (`60_exceptions.md`) -/

/-- `raise X(info)`: appends to `EVLOG` and does nothing else (R210). -/
def State.raise (e : Event) (s : State) : State := { s with evlog := s.evlog ++ [e] }

/-- Taking an event that moves the receive sequencer, the block's exception entry (R222): the event is recorded and `RXST` is set;
nothing is saved and control goes nowhere. There is no return operation (R223). -/
def State.takeEvent (e : Event) (target : RxState) (s : State) : State := { s.raise e with rxst := target }

/-! ## Received bytes and the packet buffer -/

/-- `RXBUF[i] <- d` (R8). -/
def State.storeByte (i : Nat) (d : Byte) (s : State) : State := { s with rxbuf := s.rxbuf.set i d }

/-! ## SEND (`41_framer_tx.md`) -/

/-- SEND(p), R102: `TXCRC` ends as the CRC of the payload and the whole frame is appended to `TXS`. -/
def State.send (p : List Byte) (s : State) : State :=
  { s with txcrc := crc16 p, txs := s.txs ++ frameBytes p }

/-- SEND with its precondition (R101). -/
def sendChecked (p : List Byte) (s : State) : Host.Outcome State Fault Refusal :=
  if 1 ≤ p.length ∧ p.length ≤ Config.txMaxlen then .next (s.send p) else .refused (.sendLength p.length)

/-- The handshake gate (R131), the check of the two modes of R225: before a handshake an accepted packet with another code has no
effect but the event. -/
def whenConnected (code : Byte) (s : State) (effect : Host.Outcome State Fault Refusal) :
    Host.Outcome State Fault Refusal :=
  if s.hs then effect else .next (s.raise (.ignoredBeforeHandshake code))

/-! ## Flash words (`20_memory.md` R44 to R46) -/

/-- The word at an address. -/
def Memory.read {w : Nat} : Memory w → Nat → BitVec w
  | [], _ => erasedWord w
  | (k, v) :: rest, a => if a = k then v else Memory.read rest a

/-- The memory with the word at `a` changed, canonical form kept. -/
def Memory.write {w : Nat} : Memory w → Nat → BitVec w → Memory w
  | [], a, v => if v = erasedWord w then [] else [(a, v)]
  | (k, u) :: rest, a, v =>
    if a < k then (if v = erasedWord w then (k, u) :: rest else (a, v) :: (k, u) :: rest)
    else if a = k then (if v = erasedWord w then rest else (a, v) :: rest)
    else (k, u) :: Memory.write rest a v

/-- A list of addresses written in order. -/
def Memory.writeAll {w : Nat} (m : Memory w) (cells : List (Nat × BitVec w)) : Memory w :=
  cells.foldl (fun acc c => Memory.write acc c.1 c.2) m

/-! ## Rows -/

/-- The two regions a row operation can name (R160). -/
inductive Region where
  | pm
  | ee
deriving DecidableEq, Repr

/-- What a row operation meets beside the region's own array: the parameters, configuration memory, and how many cycles the other
region has seen. -/
structure View where
  region : Region
  par    : Params
  cfg    : Memory 16
  others : Nat
deriving DecidableEq, Repr

/-- Where the region lies (R40). -/
def View.span (v : View) : Span :=
  match v.region with
  | .pm => v.par.pmSpan
  | .ee => v.par.eeSpan

/-- The region's row size in address units (R45, R46). -/
def View.units (v : View) : Nat :=
  match v.region with
  | .pm => Config.rowUnitsPm
  | .ee => Config.rowUnitsEe

/-- What operations on program memory meet. -/
def State.pmView (s : State) : View := { region := .pm, par := s.par, cfg := s.cfg, others := s.ee.cycles }

/-- What operations on data EEPROM meet. -/
def State.eeView (s : State) : View := { region := .ee, par := s.par, cfg := s.cfg, others := s.pm.cycles }

/-- The address of the device identity word (R51). -/
def identityAddr : Nat := 0xFF0000

/-- A configuration word in a 24-bit read (R40, R47): its valid bits are the stored ones; its reserved bits, and the eight bits above
the word, are `unsaid`'s. That the word stands in bits 15:0 of the read is a DESIGN CHOICE (log entry 21). -/
def configWord (mask stored : Word16) (unsaid : PmWord) : PmWord :=
  (mask &&& stored).zeroExtend 24 ||| (~~~(mask.zeroExtend 24) &&& unsaid)

/-- What a read of program memory meets at an address that is not a word of its array (R40, R51): a configuration word, or the
identity word; nothing the rules state elsewhere. Where the configuration words stand in their row, two address units apart, is a DESIGN
CHOICE (log entry 21). -/
def foreignWord (v : View) (unsaid : PmWord) (a : Nat) : Option PmWord :=
  match v.region with
  | .ee => none
  | .pm =>
    if hasWord v.par.cfgSpan a then some (configWord (v.par.cfgMask.getD ((a - v.par.cfgSpan.base) / 2) 0) (v.cfg.read a) unsaid)
    else if a = identityAddr then some v.par.deviceId
    else none

/-- Whether the device implements anything at an address (U9): one of the three regions, or the identity word. -/
def implemented (p : Params) (a : Nat) : Bool :=
  inSpan p.pmSpan a || inSpan p.eeSpan a || inSpan p.cfgSpan a || decide (a = identityAddr)

/-- The region after a read: the next free value is a fresh one. -/
def Flash.drawn {w : Nat} (f : Flash w) : Flash w := { f with draws := f.draws + 1 }

/-- Word `i` of the row at `addr` (R44): the array's word; a word the rules state beside it; in implemented memory a free value that
lasts until the next cycle; else a fresh free value (U8, U9; log entry 9). -/
def rowWord {w : Nat} (v : View) (addr : FlashAddr) (f : Flash w) (i : Nat) : BitVec w :=
  let a := wordAddr addr i
  let cycles := f.cycles + v.others
  if wordStated v.span addr i then f.cells.read a
  else if beforeWrap addr i && implemented v.par a then
    ((foreignWord v (Config.stableWord 24 cycles a) a).map (BitVec.setWidth w)).getD (Config.stableWord w cycles a)
  else Config.unstatedWord w f.draws i

/-- `MemRead` of `n` words (R44), `RowRead` (R170): a fresh read of the whole row from the array (R167). -/
def rowRead {w : Nat} (n : Nat) (v : View) (addr : FlashAddr) (f : Flash w) : List (BitVec w) :=
  (List.range n).map (rowWord v addr f)

/-! ## One erase or write cycle (R169) -/

/-- The first address of the row of the region that holds an address (R49). -/
def rowStart (span : Span) (units a : Nat) : Nat := span.base + (a - span.base) / units * units

/-- The address units a row operation at `addr` may reach, whether or not the hardware carries from `offset` into `tblpag` (R44; U8). -/
def reachedUnits (units : Nat) (addr : FlashAddr) : List Nat :=
  (List.range units).flatMap fun j =>
    [(addr.toNat + j) % 2 ^ 24, addr.toNat / 2 ^ 16 * 2 ^ 16 + (addr.toNat % 2 ^ 16 + j) % 2 ^ 16]

/-- The rows of the region one cycle at `addr` may change: the row itself; for an address that is no row of the region every row that
holds a reached unit (R169; U8; log entry 9). -/
def cycleRows (span : Span) (units : Nat) (addr : FlashAddr) : List Nat :=
  if rowStated span units addr then [addr.toNat]
  else (((reachedUnits units addr).filter (inSpan span)).map (rowStart span units)).eraseDups

/-- The word addresses one cycle at `addr` may change. -/
def cycleAddrs (span : Span) (units : Nat) (addr : FlashAddr) : List Nat :=
  (cycleRows span units addr).flatMap fun row => (List.range (units / 2)).map fun i => row + 2 * i

/-- What a cycle leaves in the `k`-th of the words it may change. A cycle that is not stated good, or not on a row of the region,
leaves any value. -/
def cycleLeaves {w : Nat} (span : Span) (units : Nat) (addr : FlashAddr) (asked : List (BitVec w)) (f : Flash w) (k : Nat) :
    BitVec w :=
  match f.script with
  | .good :: _ => if rowStated span units addr then asked.getD k (erasedWord w) else Config.cycleWord w f.draws k
  | .leaves ws :: _ => ws.getD k (Config.cycleWord w f.draws k)
  | [] => Config.cycleWord w f.draws k

/-- One hardware cycle that was asked to leave `asked` in the row (`HwRowErase`, `HwRowWrite`, R169). -/
def flashCycle {w : Nat} (span : Span) (units : Nat) (addr : FlashAddr) (asked : List (BitVec w)) (f : Flash w) : Flash w :=
  { cells := f.cells.writeAll
      (((cycleAddrs span units addr).zipIdx.filter (fun c => inSpan span c.1)).map
        (fun c => (c.1, cycleLeaves span units addr asked f c.2)))
    script := f.script.tail
    draws := f.draws + 1
    cycles := f.cycles + 1 }

/-- A cycle that power loss interrupts (R50, R260): the row is left with any values. -/
def interruptedCycle {w : Nat} (span : Span) (units : Nat) (addr : FlashAddr) (f : Flash w) : Flash w :=
  { flashCycle span units addr [] { f with script := [] } with script := f.script.tail }

/-! ## The outside world -/

/-- What may happen to the received bytes in the serial channel: an in-order queue "that may drop, corrupt or insert bytes and
never reorders", of capacity `CHANNEL_DEPTH` (R41, R251; D20). -/
inductive ChannelEvent where
  /-- the peer's next byte arrives; beyond the capacity it is lost -/
  | arrive (b : Byte)
  /-- the waiting byte at place `i` is lost -/
  | drop (i : Nat)
  /-- the waiting byte at place `i` is corrupted into `b` -/
  | corrupt (i : Nat) (b : Byte)
  /-- a spurious byte appears before place `i`; beyond the capacity it is lost -/
  | insert (i : Nat) (b : Byte)
deriving DecidableEq, Repr

/-- The received bytes after a channel event. -/
def channelBytes (depth : Nat) (waiting : List Byte) : ChannelEvent → List Byte
  | .arrive b => if waiting.length < depth then waiting ++ [b] else waiting
  | .drop i => waiting.eraseIdx i
  | .corrupt i b => waiting.set i b
  | .insert i b => if waiting.length < depth then waiting.take i ++ b :: waiting.drop i else waiting

/-- A channel event happens between two steps. -/
def State.channel (e : ChannelEvent) (s : State) : State := { s with rxs := channelBytes s.par.channelDepth s.rxs e }

/-- The reset input during a run (R240, R242): the block returns to its reset values, the flash contents survive, the packet buffer "is
not cleared at reset" (R15, followed against R28 and R240: DESIGN CHOICE, log entry 13), and `kept` is what the serial port keeps of
the waiting bytes ("the out-of-scope serial port's to keep or lose"). Bytes already transmitted stay transmitted (log entry 13). -/
def State.restart (kept : List Byte) (s : State) : State :=
  { State.reset with
    rxbuf := s.rxbuf, rxs := kept, txs := s.txs, pm := s.pm, ee := s.ee, cfg := s.cfg, par := s.par }

end Sys2Proof.Machine
end

