-- ==== Sys2Proof/Machine/Flash.lean ====
section
/-! DEFINITION. The Flash Modify Engine's contract (`44_flash_modify_engine.md` R160 to R171): four steps over fresh reads of the
row, the same for both regions but for the row size and the word width. -/

namespace Sys2Proof.Machine

/-- What the engine works on: the region and what lies around it, the row's address, the two flags and the words asked for (R160). -/
structure ModifyCall (w : Nat) where
  view    : View
  addr    : FlashAddr
  program : Bool
  force   : Bool
  want    : List (BitVec w)
deriving DecidableEq, Repr

/-- The call's parameters. -/
abbrev ModifyCall.par {w : Nat} (c : ModifyCall w) : Params := c.view.par

/-- Where the call's region lies. -/
abbrev ModifyCall.span {w : Nat} (c : ModifyCall w) : Span := c.view.span

/-- The row size of the call's region. -/
abbrev ModifyCall.units {w : Nat} (c : ModifyCall w) : Nat := c.view.units

/-- `RowRead(region, addr)` (R170). -/
def ModifyCall.row {w : Nat} (c : ModifyCall w) (f : Flash w) : List (BitVec w) := rowRead (c.units / 2) c.view c.addr f

/-- How far the engine is: the status so far, the flash, whether it has returned. -/
structure EngineState (w : Nat) where
  status   : Byte
  flash    : Flash w
  returned : Bool
deriving DecidableEq, Repr

/-- The erased row (R166). -/
def blankRow (w n : Nat) : List (BitVec w) := List.replicate n (erasedWord w)

/-- A read-back comparison, on a fresh read of the whole row (R167). -/
def rowEquals {w : Nat} (c : ModifyCall w) (row : List (BitVec w)) (f : Flash w) : Bool :=
  decide (c.row f = row)

/-- Step 1, R162: nothing to do when programming is asked without force and the row already equals the data. -/
def engineSkip {w : Nat} (c : ModifyCall w) (e : EngineState w) : EngineState w :=
  if c.program && !c.force && rowEquals c c.want e.flash then { e with status := 0, flash := e.flash.drawn, returned := true }
  else { e with flash := e.flash.drawn }

/-- Whether step 2 issues an erase (R163). -/
def eraseDue {w : Nat} (c : ModifyCall w) (e : EngineState w) : Bool :=
  !e.returned && (c.force || !rowEquals c (blankRow w (c.units / 2)) e.flash)

/-- The erase of step 2 with its verification (R163). -/
def engineEraseCycle {w : Nat} (c : ModifyCall w) (e : EngineState w) : EngineState w :=
  let blank := blankRow w (c.units / 2)
  let f := flashCycle c.span c.units c.addr blank e.flash
  let status := withEraseDone c.par e.status
  if rowEquals c blank f then { status := status, flash := f.drawn, returned := false }
  else { status := withErrorErase c.par status, flash := f.drawn, returned := true }

/-- Step 2, R163: erase when forced or when the row is not blank. -/
def engineErase {w : Nat} (c : ModifyCall w) (e : EngineState w) : EngineState w :=
  if e.returned then e
  else if eraseDue c e then engineEraseCycle c { e with flash := e.flash.drawn }
  else { e with flash := e.flash.drawn }

/-- Whether step 3 issues a write (R164). -/
def writeDue {w : Nat} (c : ModifyCall w) (e : EngineState w) : Bool :=
  !e.returned && (c.program && (c.force || !rowEquals c c.want e.flash))

/-- The write of step 3 with its verification (R164). -/
def engineWriteCycle {w : Nat} (c : ModifyCall w) (e : EngineState w) : EngineState w :=
  let f := flashCycle c.span c.units c.addr c.want e.flash
  let status := withProgramDone c.par e.status
  if rowEquals c c.want f then { status := status, flash := f.drawn, returned := false }
  else { status := withErrorProgram c.par status, flash := f.drawn, returned := true }

/-- Step 3, R164: when programming is asked, write when forced or when the row as it now stands does not equal the data. -/
def engineProgram {w : Nat} (c : ModifyCall w) (e : EngineState w) : EngineState w :=
  if e.returned then e
  else if writeDue c e then engineWriteCycle c { e with flash := e.flash.drawn }
  else { e with flash := e.flash.drawn }

/-- The call before step 2. -/
def engineStart {w : Nat} (c : ModifyCall w) (f : Flash w) : EngineState w :=
  engineSkip c { status := 0, flash := f, returned := false }

/-- The whole call (R170). -/
def engineRun {w : Nat} (c : ModifyCall w) (f : Flash w) : EngineState w := engineProgram c (engineErase c (engineStart c f))

/-- Where in a call power can be lost (R50, R260). -/
inductive CutPoint where
  /-- before any cycle -/
  | beforeErase
  /-- in the middle of the erase cycle -/
  | inErase
  /-- between the erase and the write -/
  | beforeWrite
  /-- in the middle of the write cycle -/
  | inWrite
  /-- after the last cycle, before the response -/
  | beforeResponse
deriving DecidableEq, Repr

/-- The region after a call that power loss cut short (R50, R260; log entry 27). A cut in a cycle that the call does not issue falls
after the step that would have issued it. -/
def engineCut {w : Nat} (c : ModifyCall w) (cut : CutPoint) (f : Flash w) : Flash w :=
  let before := engineStart c f
  let erased := engineErase c before
  match cut with
  | .beforeErase => before.flash
  | .inErase => if eraseDue c before then interruptedCycle c.span c.units c.addr before.flash.drawn else erased.flash
  | .beforeWrite => erased.flash
  | .inWrite =>
    if writeDue c erased then interruptedCycle c.span c.units c.addr erased.flash.drawn else (engineProgram c erased).flash
  | .beforeResponse => (engineRun c f).flash

/-- The call for a program-memory row (R151 to R154, R166). -/
def pmCall (s : State) (addr : FlashAddr) (program force : Bool) (data : List Byte) : ModifyCall 24 :=
  { view := s.pmView, addr := addr, program := program, force := force, want := pmWanted data }

/-- The call for a data-EEPROM row (R155 to R158, R166). -/
def eeCall (s : State) (addr : FlashAddr) (program force : Bool) (data : List Byte) : ModifyCall 16 :=
  { view := s.eeView, addr := addr, program := program, force := force, want := eeWanted s.par.eeLayout data }

/-- MODIFY on program memory (R150): one engine call, one response `[0xFF − code, status]`. -/
def modifyPm (code : Byte) (addr : FlashAddr) (program force : Bool) (data : List Byte) (s : State) : State :=
  let e := engineRun (pmCall s addr program force data) s.pm
  ({ s with pm := e.flash }).send [responseCode code, e.status]

/-- MODIFY on data EEPROM (R150). -/
def modifyEe (code : Byte) (addr : FlashAddr) (program force : Bool) (data : List Byte) (s : State) : State :=
  let e := engineRun (eeCall s addr program force data) s.ee
  ({ s with ee := e.flash }).send [responseCode code, e.status]

end Sys2Proof.Machine
end

