-- ==== Sys2Proof/Machine/ModifyEe.lean ====
section
/-! DEFINITION. The meanings of the four data-EEPROM modify commands (`43_dispatcher.md` R150, R155 to R158). -/

namespace Sys2Proof.Machine

/-- ERASE_EE, R155: `FlashModify(EE, addr, 0, 0, data)`. -/
def execEraseEe (code tblpag : Byte) (offset : Word16) (data : List Byte) (s : State) : Host.Outcome State Fault Refusal :=
  whenConnected code s (.next (modifyEe code (flashAddr tblpag offset) false false data s))

/-- ERASE_EE_FORCE, R156: `FlashModify(EE, addr, 0, 1, data)`. -/
def execEraseEeForce (code tblpag : Byte) (offset : Word16) (data : List Byte) (s : State) : Host.Outcome State Fault Refusal :=
  whenConnected code s (.next (modifyEe code (flashAddr tblpag offset) false true data s))

/-- PROGRAM_EE, R157: `FlashModify(EE, addr, 1, 0, data)`. -/
def execProgramEe (code tblpag : Byte) (offset : Word16) (data : List Byte) (s : State) : Host.Outcome State Fault Refusal :=
  whenConnected code s (.next (modifyEe code (flashAddr tblpag offset) true false data s))

/-- PROGRAM_EE_FORCE, R158: `FlashModify(EE, addr, 1, 1, data)`. -/
def execProgramEeForce (code tblpag : Byte) (offset : Word16) (data : List Byte) (s : State) : Host.Outcome State Fault Refusal :=
  whenConnected code s (.next (modifyEe code (flashAddr tblpag offset) true true data s))

end Sys2Proof.Machine
end

