-- ==== Sys2Proof/Machine/ModifyPm.lean ====
section
/-! DEFINITION. The meanings of the four program-memory modify commands (`43_dispatcher.md` R150 to R154). -/

namespace Sys2Proof.Machine

/-- ERASE_PM, R151: `FlashModify(PM, addr, 0, 0, data)`. -/
def execErasePm (code tblpag : Byte) (offset : Word16) (data : List Byte) (s : State) : Host.Outcome State Fault Refusal :=
  whenConnected code s (.next (modifyPm code (flashAddr tblpag offset) false false data s))

/-- ERASE_PM_FORCE, R152: `FlashModify(PM, addr, 0, 1, data)`. -/
def execErasePmForce (code tblpag : Byte) (offset : Word16) (data : List Byte) (s : State) : Host.Outcome State Fault Refusal :=
  whenConnected code s (.next (modifyPm code (flashAddr tblpag offset) false true data s))

/-- PROGRAM_PM, R153: `FlashModify(PM, addr, 1, 0, data)`. -/
def execProgramPm (code tblpag : Byte) (offset : Word16) (data : List Byte) (s : State) : Host.Outcome State Fault Refusal :=
  whenConnected code s (.next (modifyPm code (flashAddr tblpag offset) true false data s))

/-- PROGRAM_PM_FORCE, R154: `FlashModify(PM, addr, 1, 1, data)`. -/
def execProgramPmForce (code tblpag : Byte) (offset : Word16) (data : List Byte) (s : State) : Host.Outcome State Fault Refusal :=
  whenConnected code s (.next (modifyPm code (flashAddr tblpag offset) true true data s))

end Sys2Proof.Machine
end

