-- ==== Sys2Proof/Machine/Requests.lean ====
section
/-! DEFINITION. The meanings of the fixed commands HANDSHAKE, READ_ROW, START_APP (`43_dispatcher.md` R132, R136, R146) and of
NOREGION (R159). -/

namespace Sys2Proof.Machine

/-- The payload of the handshake response (R71), from the constants of R6. -/
def handshakePayload (p : Params) : List Byte :=
  0xFF :: Config.protocolVersion :: (p.signature ++ bytesOfU16 p.blSize ++ bytesOfU32 p.blBase)

/-- HANDSHAKE, R132: `HS <- 1`, then the response; in either mode. -/
def execHandshake (s : State) : Host.Outcome State Fault Refusal :=
  .next (({ s with hs := true }).send (handshakePayload s.par))

/-- The payload of a read response (R73). -/
def readRowPayload (words : List PmWord) : List Byte := 0xFE :: words.flatMap bytesOfPmWord

/-- READ_ROW, R136: 32 words at any 24-bit address, unchecked; flash is not changed, only the model's draw number moves. -/
def execReadRow (tblpag : Byte) (offset : Word16) (s : State) : Host.Outcome State Fault Refusal :=
  whenConnected 0x01 s
    (.next (({ s with pm := s.pm.drawn }).send
      (readRowPayload (rowRead Config.rowWordsPm s.pmView (flashAddr tblpag offset) s.pm))))

/-- The first jump-table word, the firmware-valid flag, at `BL_BASE` (R51, R200). -/
def validFlagWord (s : State) : PmWord := rowWord s.pmView (s.par.blBase.setWidth 24) s.pm 0

/-- The state after the flag test, which with `START_CHECKS_VALID` true has read flash: the draw number moves as in any read. -/
def flagTested (s : State) : State := if s.par.startChecksValid then { s with pm := s.pm.drawn } else s

/-- START_APP, R146: the acknowledgement goes out first, then `RUN <- APP`. With `START_CHECKS_VALID` true the case of an invalid
flag is not defined by the spec (U13; log entry 12). -/
def execStartApp (s : State) : Host.Outcome State Fault Refusal :=
  whenConnected 0x03 s
    (if s.par.startChecksValid && flagInvalid (validFlagWord s) then .refused .startFlagInvalid
     else .next { (flagTested s).send [0xFC] with run := .app })

/-- NOREGION, R159: no flash access; the response is `NOREGION_POLICY`'s (log entry 11). -/
def execNoRegion (code _tblpag : Byte) (_offset : Word16) (_data : List Byte) (s : State) :
    Host.Outcome State Fault Refusal :=
  whenConnected code s
    (.next (match s.par.noRegion with
      | .ignore => s
      | .respondStatus0 => s.send [responseCode code, 0x00]))

end Sys2Proof.Machine
end

