-- ==== Sys2Proof/Machine/Responses.lean ====
section
/-! DEFINITION. The meanings of the response records (`30_encoding.md` R71, R73, R75, R76) and of the frame (R60): each is sent by
the transmit framer (`41_framer_tx.md` R102). The dispatcher sends the first four from inside a request's meaning. -/

namespace Sys2Proof.Machine

/-- HANDSHAKE_RSP, R71. -/
def execHandshakeRsp (version : Byte) (signature : List Byte) (size : Word16) (base : BitVec 32) (s : State) :
    Host.Outcome State Fault Refusal :=
  sendChecked (encode (.handshakeRsp version signature size base)) s

/-- READ_ROW_RSP, R73. -/
def execReadRowRsp (words : List PmWord) (s : State) : Host.Outcome State Fault Refusal :=
  sendChecked (encode (.readRowRsp words)) s

/-- START_APP_RSP, R76. -/
def execStartAppRsp (s : State) : Host.Outcome State Fault Refusal := sendChecked (encode .startAppRsp) s

/-- MODIFY_RSP, R75. -/
def execModifyRsp (code status : Byte) (s : State) : Host.Outcome State Fault Refusal :=
  sendChecked (encode (.modifyRsp code status)) s

/-- FRAME, R60: SEND(payload), R101 and R102. -/
def execFrame (payload : List Byte) (s : State) : Host.Outcome State Fault Refusal := sendChecked payload s

end Sys2Proof.Machine
end

