-- ==== Sys2Proof/Machine/WireSymbols.lean ====
section
/-! DEFINITION. The receive framer (`42_framer_rx.md` R112, R115 to R120) and the meanings of the four wire symbols over it. What
DISPATCH does after an accepted packet is the next instruction, run by the same step (`Machine/Poll.lean`). -/

namespace Sys2Proof.Machine

/-- Marker, R112. -/
def marker (s : State) : State :=
  match s.rxst with
  | .header => { s with rxst := .length }
  | _ => s.takeEvent (.resync s.rxst) .length

/-- LengthByte(d), R117. -/
def lengthByte (d : Byte) (s : State) : State :=
  if d = 0 then s.takeEvent .lengthZero .header
  else if s.par.rxMaxlen < d.toNat then s.takeEvent (.lengthTooLong d) .header
  else { s with rxlen := d, rxcnt := 0, rxcrc := crcInit, rxst := .data }

/-- DataByte(d), R118. The index is in range in every state a run reaches; a store outside `RXBUF` is a fault. -/
def dataByte (d : Byte) (s : State) : Host.Outcome State Fault Refusal :=
  if s.rxcnt.toNat < s.rxbuf.length then
    .next { s.storeByte s.rxcnt.toNat d with
      rxcrc := crcUpdate s.rxcrc d
      rxcnt := s.rxcnt + 1
      rxst := if s.rxcnt + 1 = s.rxlen then .crcLsb else s.rxst }
  else .fault (.bufferIndex s.rxcnt.toNat)

/-- CrcLow(d), R119. -/
def crcLow (d : Byte) (s : State) : State := { s with rxcrc := crcUpdate s.rxcrc d, rxst := .crcMsb }

/-- CrcHigh(d), R120, up to DISPATCH: the residue decides between acceptance and the silent drop. -/
def crcHigh (d : Byte) (s : State) : State :=
  let residue := crcUpdate s.rxcrc d
  let s' := { s with rxcrc := residue, rxst := .header }
  if crcAccepts residue then s' else s'.raise (.crcMismatch residue)

/-- Decoded(d), R115, R116. -/
def decoded (d : Byte) (s : State) : Host.Outcome State Fault Refusal :=
  match s.rxst with
  | .header => .next s
  | .length => .next (lengthByte d s)
  | .data => dataByte d s
  | .crcLsb => .next (crcLow d s)
  | .crcMsb => .next (crcHigh d s)

/-- FRAME_START, R112. -/
def execFrameStart (s : State) : Host.Outcome State Fault Refusal := .next (marker s)

/-- ESC_AD, R113: the pair ends the escape and yields `0xAD`. -/
def execEscAd (s : State) : Host.Outcome State Fault Refusal := decoded Config.escByte { s with esc := false }

/-- ESC_AE, R113: the pair ends the escape and yields `0xAE`, data and not a marker. -/
def execEscAe (s : State) : Host.Outcome State Fault Refusal := decoded Config.frameStart { s with esc := false }

/-- LITERAL, R115. -/
def execLiteral (b : Byte) (s : State) : Host.Outcome State Fault Refusal := decoded b s

/-- EscapeStart, R114: the first byte of a pair. -/
def escapeStart (s : State) : State := { s with esc := escapeFlagAfterPrefix s }

/-- The error of EscapeFollow, R113, R211. -/
def escapeFault (r : Byte) (s : State) : State := { s with esc := false }.takeEvent (.escapeError r) .header

/-- Whether a decoded byte completes an accepted packet in this state (R120: `RXST = CRC_MSB` and residue 0). -/
def acceptsPacket (i : Instr) (s : State) : Bool :=
  match i.decodedByte with
  | some d => decide (s.rxst = .crcMsb) && crcAccepts (crcUpdate s.rxcrc d)
  | none => false

end Sys2Proof.Machine
end

