-- ==== Sys2Proof/Machine/Dispatch.lean ====
section
/-! DEFINITION. The meaning of every instruction: one arm per constructor of Instr. -/

namespace Sys2Proof.Machine

def exec (i : Instr) (s : State) : Host.Outcome State Fault Refusal :=
  match i with
  | .handshake => Sys2Proof.Machine.execHandshake s
  | .readRow tblpag offset => Sys2Proof.Machine.execReadRow tblpag offset s
  | .startApp => Sys2Proof.Machine.execStartApp s
  | .erasePm code tblpag offset data => Sys2Proof.Machine.execErasePm code tblpag offset data s
  | .erasePmForce code tblpag offset data => Sys2Proof.Machine.execErasePmForce code tblpag offset data s
  | .programPm code tblpag offset data => Sys2Proof.Machine.execProgramPm code tblpag offset data s
  | .programPmForce code tblpag offset data => Sys2Proof.Machine.execProgramPmForce code tblpag offset data s
  | .eraseEe code tblpag offset data => Sys2Proof.Machine.execEraseEe code tblpag offset data s
  | .eraseEeForce code tblpag offset data => Sys2Proof.Machine.execEraseEeForce code tblpag offset data s
  | .programEe code tblpag offset data => Sys2Proof.Machine.execProgramEe code tblpag offset data s
  | .programEeForce code tblpag offset data => Sys2Proof.Machine.execProgramEeForce code tblpag offset data s
  | .noRegion code tblpag offset data => Sys2Proof.Machine.execNoRegion code tblpag offset data s
  | .handshakeRsp version signature size base => Sys2Proof.Machine.execHandshakeRsp version signature size base s
  | .readRowRsp words => Sys2Proof.Machine.execReadRowRsp words s
  | .startAppRsp => Sys2Proof.Machine.execStartAppRsp s
  | .modifyRsp code status => Sys2Proof.Machine.execModifyRsp code status s
  | .frameStart => Sys2Proof.Machine.execFrameStart s
  | .escAd => Sys2Proof.Machine.execEscAd s
  | .escAe => Sys2Proof.Machine.execEscAe s
  | .literal b => Sys2Proof.Machine.execLiteral b s
  | .frame payload => Sys2Proof.Machine.execFrame payload s

end Sys2Proof.Machine
end

