-- ==== Sys2Proof/Machine/Poll.lean ====
section
/-! DEFINITION. One step of the block, POLL (`42_framer_rx.md` R110, R111, R121; `43_dispatcher.md` R130): at most one raw byte is
consumed, the wire symbol it completes is run, and when that completes an accepted packet the request in the packet buffer is
decoded and run, all in the same step (D2). -/

namespace Sys2Proof.Machine

/-- DISPATCH, R130: the record is decoded in place from the whole packet buffer, whatever `RXLEN` is, and run (log entry 4). -/
def dispatch (s : State) : Host.Outcome State Fault Refusal :=
  match decodeRequest s.rxbuf with
  | .ok request => exec request s
  | .error _ => .fault (.bufferIndex s.rxbuf.length)

/-- A wire symbol is run, and the request it delivers, if any (R120, R121). -/
def runSymbol (i : Instr) (s : State) : Host.Outcome State Fault Refusal :=
  match exec i s with
  | .next s' => if acceptsPacket i s then dispatch s' else .next s'
  | .fault r => .fault r
  | .refused r => .refused r

/-- RX_STEP(r), R111. -/
def rxStep (r : Byte) (s : State) : Host.Outcome State Fault Refusal :=
  match decodeRaw s.esc r with
  | .symbol i => runSymbol i s
  | .escapePrefix => .next (escapeStart s)
  | .illegalFollow => .next (escapeFault r s)

/-- POLL, R110. -/
def poll (s : State) : Host.Outcome State Fault Refusal :=
  match s.run with
  | .app => .next s
  | .boot =>
    match s.rxs with
    | [] => .next s
    | r :: rest => rxStep r { s with rxs := rest }

/-- The state about to consume the last CRC byte of a frame whose payload is `record` (R118 to R120): the record stands in the
packet buffer, and the waiting byte brings the residue to zero. -/
def State.withRequest (record : List Byte) (s : State) : State :=
  { s with
    run := .boot
    esc := false
    rxst := .crcMsb
    rxlen := BitVec.ofNat 8 record.length
    rxcnt := BitVec.ofNat 8 record.length
    rxbuf := record ++ s.rxbuf.drop record.length
    rxcrc := 0
    rxs := 0x00 :: s.rxs }

/-- The state about to consume the last raw byte of a wire symbol; for an escape pair its prefix has been consumed. -/
def State.withSymbol (raw : List Byte) (s : State) : State :=
  match raw with
  | [first, follow] =>
    if first = Config.escByte then { s with run := .boot, esc := true, rxs := follow :: s.rxs }
    else { s with run := .boot, esc := false, rxs := raw ++ s.rxs }
  | _ => { s with run := .boot, esc := false, rxs := raw ++ s.rxs }

/-- A table word placed where the next step takes it from (log entry 14). A response record is sent by the step that runs the request
it answers, in the Connected mode, so that request is placed. -/
def State.placeTableWord (s : State) (nbits w : Nat) : State :=
  match tableLayer nbits w with
  | .symbol => s.withSymbol (tableBytes nbits w)
  | .response => { s with hs := true }.withRequest (tableBytes 8 (0xFF - w))
  | .request => s.withRequest (tableBytes nbits w)
  | .frame => s

/-! ## Power loss (R50, R260) -/

/-- The request that the next step would run, if any: the one the packet buffer holds when the next byte accepts a packet. -/
def State.pendingRequest (s : State) : Option Instr :=
  match s.run, s.rxs with
  | .boot, r :: _ =>
    match decodeRaw s.esc r with
    | .symbol i => if acceptsPacket i s then (decodeRequest s.rxbuf).toOption else none
    | _ => none
  | _, _ => none

/-- Program memory after a modify that was cut short. -/
def State.cutPm (cut : CutPoint) (tblpag : Byte) (offset : Word16) (program force : Bool) (data : List Byte) (s : State) : State :=
  { s with pm := engineCut (pmCall s (flashAddr tblpag offset) program force data) cut s.pm }

/-- Data EEPROM after a modify that was cut short. -/
def State.cutEe (cut : CutPoint) (tblpag : Byte) (offset : Word16) (program force : Bool) (data : List Byte) (s : State) : State :=
  { s with ee := engineCut (eeCall s (flashAddr tblpag offset) program force data) cut s.ee }

/-- The flash after a request that power loss cut short in the Connected mode; a request that is no modify has not touched it. -/
def State.cutShort (cut : CutPoint) (request : Instr) (s : State) : State :=
  match request with
  | .erasePm _ tblpag offset data => s.cutPm cut tblpag offset false false data
  | .erasePmForce _ tblpag offset data => s.cutPm cut tblpag offset false true data
  | .programPm _ tblpag offset data => s.cutPm cut tblpag offset true false data
  | .programPmForce _ tblpag offset data => s.cutPm cut tblpag offset true true data
  | .eraseEe _ tblpag offset data => s.cutEe cut tblpag offset false false data
  | .eraseEeForce _ tblpag offset data => s.cutEe cut tblpag offset false true data
  | .programEe _ tblpag offset data => s.cutEe cut tblpag offset true false data
  | .programEeForce _ tblpag offset data => s.cutEe cut tblpag offset true true data
  | .handshake | .readRow _ _ | .startApp | .noRegion _ _ _ _ | .handshakeRsp _ _ _ _ | .readRowRsp _ | .startAppRsp | .modifyRsp _ _
  | .frameStart | .escAd | .escAe | .literal _ | .frame _ => s

/-- Power is lost during the step from `s`, before its response is sent, and comes back: a modify the step would run is cut short at
`cut`, and the block starts from reset (R230, R260). `kept` is as in `State.restart`; `ram` is what the packet buffer's first bytes
hold when power is back, which no rule says (R28; log entry 27). -/
def State.powerLoss (cut : CutPoint) (kept ram : List Byte) (s : State) : State :=
  let cutState := match s.hs, s.pendingRequest with
    | true, some request => s.cutShort cut request
    | _, _ => s
  { cutState.restart kept with rxbuf := (ram ++ s.rxbuf.drop ram.length).take s.rxbuf.length }

end Sys2Proof.Machine
end

