-- ==== Sys2Proof/Machine/HostPeer.lean ====
section
/-! DEFINITION. What the spec gives in full of the host peer, the block's environment (`45_host_peer.md`; `00_scope.md` R4): the
jump-table words of one interrupt vector, the rows the host never targets, the response it expects. No step uses these. -/

namespace Sys2Proof.Machine

/-- The two jump-table words the host writes for a vector value `v` (R191). -/
def patchVector (v : PmWord) : PmWord × PmWord := (0x040000 ||| (v &&& 0x00FFFE), (v >>> 16) &&& 0x7F)

/-- The vector value the host reads back from two jump-table words (R192). -/
def unpatchVector (words : PmWord × PmWord) : PmWord := (words.1 &&& 0x00FFFE) ||| ((words.2 &&& 0x7F) <<< 16)

/-- A row address the host never erases or programs: `[BL_BASE + 2·rowSize, BL_BASE + BL_SIZE)` (R58, R194). -/
def hostProtected (p : Params) (addr : FlashAddr) : Bool :=
  decide (p.blBase.toNat + 2 * Config.rowUnitsPm ≤ addr.toNat) && decide (addr.toNat < p.blBase.toNat + p.blSize.toNat)

/-- The payload length the host expects in answer to a request (R186); none for what is no request. -/
def expectedResponseLength : Instr → Option Nat
  | .handshake => some 16
  | .readRow _ _ => some 97
  | .startApp => some 1
  | .erasePm _ _ _ _ => some 2
  | .erasePmForce _ _ _ _ => some 2
  | .programPm _ _ _ _ => some 2
  | .programPmForce _ _ _ _ => some 2
  | .eraseEe _ _ _ _ => some 2
  | .eraseEeForce _ _ _ _ => some 2
  | .programEe _ _ _ _ => some 2
  | .programEeForce _ _ _ _ => some 2
  | _ => none

/-- Whether the host takes `payload` as the response to a request: the complement of the request's code first, and the expected
length (R183, R186). -/
def hostAccepts (request : Instr) (payload : List Byte) : Bool :=
  match (encode request).head?, payload.head?, expectedResponseLength request with
  | some code, some rsp, some n => decide (rsp = responseCode code) && decide (payload.length = n)
  | _, _, _ => false

end Sys2Proof.Machine
end

