-- ==== Sys2Proof/Safety.lean ====
section
/-! DEFINITION. What a state of a run always is, and what a safe step is, in the terms the statements use. -/

namespace Sys2Proof.Machine

/-- The receive position is consistent (R11, R13, R14, R123): in `DATA` fewer bytes are stored than the accepted length, in the
CRC states all of them, and the accepted length is 1 to `RX_MAXLEN`. -/
def State.positionOk (s : State) : Bool :=
  match s.rxst with
  | .header => true
  | .length => true
  | .data => decide (1 ≤ s.rxlen.toNat) && decide (s.rxlen.toNat ≤ s.par.rxMaxlen) && decide (s.rxcnt.toNat < s.rxlen.toNat)
  | .crcLsb => decide (1 ≤ s.rxlen.toNat) && decide (s.rxlen.toNat ≤ s.par.rxMaxlen) && decide (s.rxcnt = s.rxlen)
  | .crcMsb => decide (1 ≤ s.rxlen.toNat) && decide (s.rxlen.toNat ≤ s.par.rxMaxlen) && decide (s.rxcnt = s.rxlen)

/-- Every listed word is a word of the region (R40; for configuration memory log entry 21). -/
def Memory.inRegion {w : Nat} (span : Span) (m : Memory w) : Bool := m.all fun c => hasWord span c.1

/-- The invariant of the machine. -/
structure State.Inv (s : State) : Prop where
  /-- the parameters are within the bounds of R6 -/
  legal : s.par.legal = true
  /-- `RXBUF` has `RX_MAXLEN` bytes (R10) -/
  buffer : s.rxbuf.length = s.par.rxMaxlen
  /-- the receive position is consistent -/
  position : s.positionOk = true
  /-- with `ESC_IN_HEADER` false no escape is pending in `HEADER` (R114) -/
  escape : s.esc = true → s.rxst = .header → s.par.escInHeader = true
  /-- program memory is in canonical form and within its region -/
  pmForm : s.pm.cells.wf = true ∧ s.pm.cells.inRegion s.par.pmSpan = true
  /-- data EEPROM is in canonical form and within its region -/
  eeForm : s.ee.cells.wf = true ∧ s.ee.cells.inRegion s.par.eeSpan = true
  /-- configuration memory is in canonical form and within its one row (R47) -/
  cfgForm : s.cfg.wf = true ∧ s.cfg.inRegion s.par.cfgSpan = true

/-- The state a wire symbol's decoded byte meets: a pair has ended its escape (R113). -/
def afterEscape (i : Instr) (s : State) : State :=
  match i with
  | .escAd => { s with esc := false }
  | .escAe => { s with esc := false }
  | _ => s

/-- Whether the next step accepts a packet: the byte it consumes completes one whose residue is zero (R120). -/
def State.accepting (s : State) : Bool :=
  match s.run, s.rxs with
  | .boot, r :: _ =>
    match decodeRaw s.esc r with
    | .symbol i => acceptsPacket i s
    | _ => false
  | _, _ => false

/-- The code byte of the packet in the buffer (R130). -/
def State.code (s : State) : Byte := s.rxbuf.getD 0 0

/-- The outcome is no fault. -/
def NoFault (o : Host.Outcome State Fault Refusal) : Prop := ∀ r, o ≠ .fault r

/-- A safe step: it answers a next state. -/
def Runs (o : Host.Outcome State Fault Refusal) : Prop := ∃ t, o = .next t

end Sys2Proof.Machine
end

