-- ==== Sys2Proof/Certificates/Slice0/Obligations.lean ====
section
/-! DEFINITION. The statements for the provers. Each names the rule of spec/ it formalises. -/

open Sys2Proof Sys2Proof.Machine

/-! ## The CRC-16 generator (`40_crc16.md`) -/

/-- R94: width, linearity, invertibility, zero residue, uniqueness. -/
def Obligations.CrcUpdateObeysItsLaws : Prop :=
  (∀ (s : Word16) (b : Byte), crcUpdate s b = crcUpdate (s ^^^ b.zeroExtend 16) 0 ∧
    (s ^^^ b.zeroExtend 16).extractLsb' 8 8 = s.extractLsb' 8 8) ∧
  (∀ (s1 s2 : Word16) (b1 b2 : Byte),
    crcUpdate (s1 ^^^ s2) (b1 ^^^ b2) = crcUpdate s1 b1 ^^^ crcUpdate s2 b2 ^^^ crcUpdate 0 0) ∧
  crcUpdate 0 0 = 0 ∧
  Function.Bijective crcShift ∧
  (∀ b : Byte, Function.Bijective fun s => crcUpdate s b) ∧
  (∀ c : Word16, crcUpdate c (c.extractLsb' 0 8) = c >>> 8 ∧ crcUpdate (c >>> 8) (c.extractLsb' 8 8) = 0) ∧
  (∀ p : List Byte, crc16 (p ++ bytesOfU16 (crc16 p)) = 0) ∧
  (∀ (p : List Byte) (lo hi : Byte), crc16 (p ++ [lo, hi]) = 0 ↔ [lo, hi] = bytesOfU16 (crc16 p))

/-- R93: the residue form and the comparison form accept the same CRC fields. -/
def Obligations.CrcCheckAcceptsExactlyTheMatchingField : Prop :=
  ∀ (p : List Byte) (lo hi : Byte),
    crcAccepts (crcUpdate (crcUpdate (crc16 p) lo) hi) = true ↔ u16OfBytes lo hi = crc16 p

/-- R95: the table-driven form equals the bitwise one. -/
def Obligations.CrcTableFormEqualsBitwiseForm : Prop :=
  ∀ (s : Word16) (b : Byte), crcUpdateByTable s b = crcUpdate s b

/-! ## The escape code and the transmit framer (`30_encoding.md`, `41_framer_tx.md`) -/

/-- R61, R100: the escape code, both ways, and the pairs that are not in it. -/
def Obligations.EscapeCodeIsItsTable : Prop :=
  escEncode 0xAD = [0xAD, 0x00] ∧ escEncode 0xAE = [0xAD, 0x01] ∧
  (∀ d : Byte, d ≠ 0xAD → d ≠ 0xAE → escEncode d = [d]) ∧
  (∀ d : Byte, ∃ i, decodeSymbol (escEncode d) = .ok i ∧ i.decodedByte = some d) ∧
  (∀ x : Byte, x ≠ 0x00 → x ≠ 0x01 → decodeSymbol [0xAD, x] = .error (.illegalEscape x)) ∧
  decodeSymbol [0xAE] = .ok .frameStart

/-- R103 (a), (b), (c): one marker, first; every prefix followed by `0x00` or `0x01`; the raw length. -/
def Obligations.SentFrameHasOneMarkerAndPairedPrefixes : Prop :=
  ∀ p : List Byte, 1 ≤ p.length → p.length ≤ 128 →
    (∃ body, frameBytes p = 0xAE :: body ∧ (0xAE : Byte) ∉ body) ∧
    (∀ k : Nat, (frameBytes p)[k]? = some 0xAD → (frameBytes p)[k + 1]? = some 0x00 ∨ (frameBytes p)[k + 1]? = some 0x01) ∧
    p.length + 4 ≤ (frameBytes p).length ∧ (frameBytes p).length ≤ 2 * p.length + 6

/-- R102: SEND of a payload of 1 to 128 bytes appends the whole frame and leaves its CRC in `TXCRC`; nothing else changes. That running the
FRAME row means SEND of its payload is the model's choice (log entry 15). -/
def Obligations.SendAppendsTheWholeFrame : Prop :=
  ∀ (p : List Byte) (s : State), 1 ≤ p.length → p.length ≤ 128 →
    exec (.frame p) s = .next { s with
      txcrc := p.foldl crcUpdate 0xFFFF
      txs := s.txs ++ [0xAE] ++ escEncode (BitVec.ofNat 8 p.length) ++ p.flatMap escEncode ++
        escEncode ((p.foldl crcUpdate 0xFFFF).extractLsb' 0 8) ++ escEncode ((p.foldl crcUpdate 0xFFFF).extractLsb' 8 8) }

/-- R101: outside 1 to 128 bytes SEND is refused. -/
def Obligations.SendRefusesOtherLengths : Prop :=
  ∀ (p : List Byte) (s : State), p.length = 0 ∨ 128 < p.length → exec (.frame p) s = .refused (.sendLength p.length)

/-- R71, R73, R75, R76: each response record is sent byte for byte as its layout says. That running a response record means sending
it is the model's (log entry 15). -/
def Obligations.ResponseRecordsAreSentByTheirLayouts : Prop :=
  (∀ (v s0 s1 s2 s3 s4 s5 s6 s7 : Byte) (z : Word16) (b : BitVec 32) (s : State),
    exec (.handshakeRsp v [s0, s1, s2, s3, s4, s5, s6, s7] z b) s = .next (s.send
      [0xFF, v, s0, s1, s2, s3, s4, s5, s6, s7, z.extractLsb' 0 8, z.extractLsb' 8 8,
       b.extractLsb' 0 8, b.extractLsb' 8 8, b.extractLsb' 16 8, b.extractLsb' 24 8])) ∧
  (∀ (ws : List PmWord) (s : State), ws.length = 32 → ∃ p : List Byte,
    exec (.readRowRsp ws) s = .next (s.send p) ∧ p.length = 97 ∧ p[0]? = some 0xFE ∧
    ∀ (i : Nat) (w : PmWord), ws[i]? = some w →
      p[1 + 3 * i]? = some (w.extractLsb' 0 8) ∧ p[2 + 3 * i]? = some (w.extractLsb' 8 8) ∧
      p[3 + 3 * i]? = some (w.extractLsb' 16 8)) ∧
  (∀ s : State, exec .startAppRsp s = .next (s.send [0xFC])) ∧
  (∀ (code status : Byte) (s : State), exec (.modifyRsp code status) s = .next (s.send [0xFF - code, status]))

/-! ## The receive framer (`42_framer_rx.md`) -/

/-- R112, R215: a marker goes to `LENGTH` from any state; a frame in progress is recorded as abandoned; nothing else changes. -/
def Obligations.MarkerRestartsFraming : Prop :=
  (∀ s : State, exec .frameStart s = .next { s with
    rxst := .length
    evlog := if s.rxst = .header then s.evlog else s.evlog ++ [.resync s.rxst] }) ∧
  (∀ (rest : List Byte) (s : State), s.run = .boot → s.esc = false → s.rxs = 0xAE :: rest →
    step s = exec .frameStart { s with rxs := rest })

/-- R116: a decoded byte in `HEADER` changes nothing; a pair has ended its escape. -/
def Obligations.DecodedByteInHeaderIsDiscarded : Prop :=
  ∀ (i : Instr) (d : Byte) (s : State), i.decodedByte = some d → s.rxst = .header → exec i s = .next (afterEscape i s)

/-- R117, R212, R213: the two length checks and the acceptance. -/
def Obligations.LengthByteIsCheckedThenAccepted : Prop :=
  ∀ (i : Instr) (d : Byte) (s : State), i.decodedByte = some d → s.rxst = .length →
    (d = 0 → exec i s = .next { afterEscape i s with rxst := .header, evlog := s.evlog ++ [.lengthZero] }) ∧
    (d ≠ 0 → s.par.rxMaxlen < d.toNat →
      exec i s = .next { afterEscape i s with rxst := .header, evlog := s.evlog ++ [.lengthTooLong d] }) ∧
    (d ≠ 0 → d.toNat ≤ s.par.rxMaxlen →
      exec i s = .next { afterEscape i s with rxst := .data, rxlen := d, rxcnt := 0, rxcrc := 0xFFFF })

/-- R118: a payload byte is stored, counted and run through the CRC; the last one moves to `CRC_LSB`. "The index is always in range". -/
def Obligations.DataByteIsStoredAndCounted : Prop :=
  ∀ (i : Instr) (d : Byte) (s : State), i.decodedByte = some d → s.rxst = .data → s.rxcnt.toNat < s.rxbuf.length →
    exec i s = .next { afterEscape i s with
      rxbuf := s.rxbuf.set s.rxcnt.toNat d
      rxcrc := crcUpdate s.rxcrc d
      rxcnt := s.rxcnt + 1
      rxst := if s.rxcnt + 1 = s.rxlen then .crcLsb else .data }

/-- R119: the CRC low byte enters the accumulator and is not stored. -/
def Obligations.CrcLowByteEntersTheAccumulator : Prop :=
  ∀ (i : Instr) (d : Byte) (s : State), i.decodedByte = some d → s.rxst = .crcLsb →
    exec i s = .next { afterEscape i s with rxcrc := crcUpdate s.rxcrc d, rxst := .crcMsb }

/-- R120, R214: the CRC high byte; a non-zero residue is a silent drop, a zero residue runs DISPATCH in the same step. That `exec` of the
symbol ends at acceptance, in `HEADER`, and the step then runs DISPATCH is the model's choice (log entry 17). -/
def Obligations.CrcHighByteAcceptsOrDrops : Prop :=
  (∀ (i : Instr) (d : Byte) (s : State), i.decodedByte = some d → s.rxst = .crcMsb →
    (crcUpdate s.rxcrc d ≠ 0 → exec i s = .next { afterEscape i s with
      rxcrc := crcUpdate s.rxcrc d, rxst := .header, evlog := s.evlog ++ [.crcMismatch (crcUpdate s.rxcrc d)] }) ∧
    (crcUpdate s.rxcrc d = 0 → exec i s = .next { afterEscape i s with rxcrc := 0, rxst := .header })) ∧
  (∀ (r : Byte) (rest : List Byte) (i : Instr) (d : Byte) (s : State), s.run = .boot → s.rxs = r :: rest →
    decodeRaw s.esc r = .symbol i → i.decodedByte = some d → s.rxst = .crcMsb →
    (crcUpdate s.rxcrc d ≠ 0 → step s = exec i { s with rxs := rest }) ∧
    (crcUpdate s.rxcrc d = 0 → step s = dispatch { afterEscape i s with rxs := rest, rxcrc := 0, rxst := .header }))

/-- R113, R211: the follow byte of an escape, in the three cases. -/
def Obligations.FollowByteEndsTheEscape : Prop :=
  ∀ (r : Byte) (rest : List Byte) (s : State), s.run = .boot → s.esc = true → s.rxs = r :: rest →
    (r = 0x00 → step s = runSymbol (.literal 0xAD) { s with esc := false, rxs := rest }) ∧
    (r = 0x01 → step s = runSymbol (.literal 0xAE) { s with esc := false, rxs := rest }) ∧
    (r ≠ 0x00 → r ≠ 0x01 → step s = .next { s with
      esc := false, rxst := .header, rxs := rest, evlog := s.evlog ++ [.escapeError r] })

/-- R114: `0xAD` outside an escape. -/
def Obligations.PrefixSetsEscapePending : Prop :=
  ∀ (rest : List Byte) (s : State), s.run = .boot → s.esc = false → s.rxs = 0xAD :: rest →
    step s = .next { s with rxs := rest, esc := if s.rxst ≠ .header ∨ s.par.escInHeader = true then true else false }

/-- R110: POLL without a byte or after START_APP changes nothing; otherwise it consumes exactly one byte. -/
def Obligations.PollConsumesOneByteOrNothing : Prop :=
  (∀ s : State, s.run = .app → step s = .next s) ∧
  (∀ s : State, s.run = .boot → s.rxs = [] → step s = .next s) ∧
  (∀ (r : Byte) (rest : List Byte) (s : State), s.run = .boot → s.rxs = r :: rest →
    step s = rxStep r { s with rxs := rest })

/-- R111: the order of the tests on a raw byte. -/
def Obligations.RawByteTestsAreMadeInOrder : Prop :=
  ∀ (r : Byte) (s : State),
    (s.esc = true → r = 0x00 → rxStep r s = runSymbol .escAd s) ∧
    (s.esc = true → r = 0x01 → rxStep r s = runSymbol .escAe s) ∧
    (s.esc = true → r ≠ 0x00 → r ≠ 0x01 → rxStep r s = .next (escapeFault r s)) ∧
    (s.esc = false → r = 0xAE → rxStep r s = runSymbol .frameStart s) ∧
    (s.esc = false → r = 0xAD → rxStep r s = .next (escapeStart s)) ∧
    (s.esc = false → r ≠ 0xAE → r ≠ 0xAD → rxStep r s = runSymbol (.literal r) s)

/-- A step runs the decoded instruction: the wire symbol the consumed byte completes and, when that accepts a packet, the request
decoded from the packet buffer, at the state the symbol leaves (R110, R120, R121, R130). -/
def Obligations.StepRunsTheDecodedInstruction : Prop :=
  ∀ (r : Byte) (rest : List Byte) (i : Instr) (s : State), s.run = .boot → s.rxs = r :: rest →
    decodeRaw s.esc r = .symbol i →
    (acceptsPacket i { s with rxs := rest } = false → step s = exec i { s with rxs := rest }) ∧
    (∀ (u : State) (c : Instr), acceptsPacket i { s with rxs := rest } = true → exec i { s with rxs := rest } = .next u →
      decode .request u.rxbuf = .ok c → step s = exec c u)

/-- R116: "only rule R112 leaves this state": `HEADER` is left only by an unescaped marker, to `LENGTH`. -/
def Obligations.HeaderIsLeftOnlyByAMarker : Prop :=
  ∀ s t : State, step s = .next t → s.rxst = .header → t.rxst ≠ .header →
    t.rxst = .length ∧ s.esc = false ∧ s.rxs.head? = some 0xAE

/-- R123 (a), R104: from any state with no escape pending, the raw bytes of one frame of at most `RX_MAXLEN` payload bytes lead to
one DISPATCH with that payload at the head of the packet buffer, the rest of the buffer and everything else as it was. -/
def Obligations.WellFormedFrameIsDelivered : Prop :=
  ∀ (s : State) (p rest : List Byte), s.run = .boot → s.esc = false → 1 ≤ p.length → p.length ≤ 128 →
    p.length ≤ s.par.rxMaxlen → s.rxbuf.length = s.par.rxMaxlen → s.rxs = frameBytes p ++ rest →
    (Host.Core.run Sys2Proof.core (frameBytes p).length s : Host.Outcome State Fault Refusal) =
      dispatch { s with
        rxs := rest
        rxst := .header
        rxlen := BitVec.ofNat 8 p.length
        rxcnt := BitVec.ofNat 8 p.length
        rxcrc := 0
        rxbuf := p ++ s.rxbuf.drop p.length
        evlog := s.evlog ++ (if s.rxst = .header then [] else [.resync s.rxst]) }

/-- R123 (b), R253: with an escape pending the frame's marker is swallowed and the whole frame is lost; the framer is clean after it. -/
def Obligations.FrameAfterStrayPrefixIsLost : Prop :=
  ∀ (s : State) (p rest : List Byte), s.run = .boot → s.esc = true → 1 ≤ p.length → p.length ≤ 128 →
    s.rxs = frameBytes p ++ rest →
    (Host.Core.run Sys2Proof.core (frameBytes p).length s : Host.Outcome State Fault Refusal) =
      .next { s with rxs := rest, esc := false, rxst := .header, evlog := s.evlog ++ [.escapeError 0xAE] }

/-! ## The dispatcher (`43_dispatcher.md`) -/

/-- R130, R131, R150: the order of the dispatcher's tests over the bytes of the packet buffer. -/
def Obligations.DispatchMakesItsTestsInOrder : Prop :=
  ∀ u : State, 100 ≤ u.rxbuf.length →
    let code := u.rxbuf.getD 0 0
    let tblpag := u.rxbuf.getD 1 0
    let offset := u16OfBytes (u.rxbuf.getD 2 0) (u.rxbuf.getD 3 0)
    let addr := flashAddr tblpag offset
    let data := (u.rxbuf.drop 4).take 96
    dispatch u =
      if code = 0x00 then exec .handshake u
      else if u.hs = false then .next { u with evlog := u.evlog ++ [.ignoredBeforeHandshake code] }
      else if code = 0x01 then exec (.readRow tblpag offset) u
      else if code = 0x03 then exec .startApp u
      else if code.getLsbD 3 = true then .next (modifyPm code addr (code.getLsbD 1) (code.getLsbD 0) data u)
      else if code.getLsbD 4 = true then .next (modifyEe code addr (code.getLsbD 1) (code.getLsbD 0) data u)
      else exec (.noRegion code tblpag offset data) u

/-- R131, R216: before a handshake every other request has no effect but the event. -/
def Obligations.RequestsAreIgnoredBeforeHandshake : Prop :=
  ∀ (i : Instr) (s : State), i.layer = .request → i ≠ .handshake → s.hs = false →
    ∃ code, (encode i).head? = some code ∧
      exec i s = .next { s with evlog := s.evlog ++ [.ignoredBeforeHandshake code] }

/-- R132, R71: the handshake opens the gate, in either mode, and sends the 16-byte record. -/
def Obligations.HandshakeOpensTheGateAndAnswers : Prop :=
  ∀ s : State,
    let payload : List Byte := [0xFF, 0x01] ++ s.par.signature ++
      [s.par.blSize.extractLsb' 0 8, s.par.blSize.extractLsb' 8 8, s.par.blBase.extractLsb' 0 8,
       s.par.blBase.extractLsb' 8 8, s.par.blBase.extractLsb' 16 8, s.par.blBase.extractLsb' 24 8]
    exec .handshake s = .next { s with hs := true, txcrc := crc16 payload, txs := s.txs ++ frameBytes payload } ∧
    (s.par.signature.length = 8 → payload.length = 16)

/-- R136, R73, R44: READ_ROW answers 32 words, low, high, upper byte each; every word the rules state is the array's; flash keeps its
words and its coming cycles. What the model's draw number (log entry 8) becomes is not said. -/
def Obligations.ReadRowAnswersTheRow : Prop :=
  ∀ (tblpag : Byte) (offset : Word16) (s : State), s.hs = true →
    ∃ (words : List PmWord) (draws : Nat), words.length = 32 ∧
      (∀ i, i < 32 → wordStated s.par.pmSpan (flashAddr tblpag offset) i = true →
        words[i]? = some (s.pm.cells.read (wordAddr (flashAddr tblpag offset) i))) ∧
      exec (.readRow tblpag offset) s = .next { s with
        pm := { s.pm with draws := draws }
        txcrc := crc16 (0xFE :: words.flatMap fun w => [w.extractLsb' 0 8, w.extractLsb' 8 8, w.extractLsb' 16 8])
        txs := s.txs ++ frameBytes (0xFE :: words.flatMap fun w => [w.extractLsb' 0 8, w.extractLsb' 8 8, w.extractLsb' 16 8]) }

/-- R43, R77, R44: address and operand assembly from the bytes of a request; the words of a row of its region lie at `addr + 2·i`. -/
def Obligations.OperandsAreAssembledLowByteFirst : Prop :=
  (∀ (tblpag : Byte) (offset : Word16), (flashAddr tblpag offset).toNat = tblpag.toNat * 65536 + offset.toNat) ∧
  (∀ (tblpag lo hi : Byte) (rest : List Byte),
    decodeRequest (0x01 :: tblpag :: lo :: hi :: rest) = .ok (.readRow tblpag (u16OfBytes lo hi)) ∧
    (u16OfBytes lo hi).toNat = hi.toNat * 256 + lo.toNat) ∧
  (∀ (data : List Byte) (i : Nat) (low high upper : Byte), i < 32 →
    data[3 * i]? = some low → data[3 * i + 1]? = some high → data[3 * i + 2]? = some upper →
    ∃ w, (pmWanted data)[i]? = some w ∧ w.toNat = upper.toNat * 65536 + high.toNat * 256 + low.toNat) ∧
  (∀ (span : Span) (units : Nat) (addr : FlashAddr) (i : Nat), units = 64 ∨ units = 32 → rowStated span units addr = true →
    i < units / 2 → wordStated span addr i = true ∧ wordAddr addr i = addr.toNat + 2 * i ∧ addr.toNat + 2 * i < span.base + span.units)

/-- R146, R110: the acknowledgement goes out, then the application owns the machine and no further step changes anything. That no
validity check is made is the spec's default of `START_CHECKS_VALID` (log entry 3). -/
def Obligations.StartAppAcknowledgesThenStops : Prop :=
  ∀ s : State, s.hs = true → s.par.startChecksValid = false →
    ∃ t, exec .startApp s = .next t ∧
      t = { s with txcrc := crc16 [0xFC], txs := s.txs ++ frameBytes [0xFC], run := .app } ∧
      frameBytes [0xFC] = [0xAE, 0x01, 0xFC, 0x64, 0x32] ∧ step t = .next t

/-- U13: with the check, a valid flag starts the application and an invalid one is refused by name (log entry 12). What the draw number of
the flag's read (log entry 8) becomes is not said. -/
def Obligations.StartAppWithFlagCheck : Prop :=
  ∀ s : State, s.hs = true → s.par.startChecksValid = true →
    (validFlagWord s ≠ 0xFFFFFF → ∃ draws, exec .startApp s = .next { s with
      pm := { s.pm with draws := draws }, txcrc := crc16 [0xFC], txs := s.txs ++ frameBytes [0xFC], run := .app }) ∧
    (validFlagWord s = 0xFFFFFF → exec .startApp s = .refused .startFlagInvalid)

/-- R150 to R154: each program-memory modify command makes one engine call with its flags and answers `[0xFF − code, status]`;
nothing but program memory, `TXCRC` and `TXS` changes. -/
def Obligations.ProgramMemoryCommandsRunTheEngine : Prop :=
  ∀ (code tblpag : Byte) (offset : Word16) (data : List Byte) (s : State), s.hs = true →
    let answer := fun (program force : Bool) =>
      let e := engineRun (pmCall s (flashAddr tblpag offset) program force data) s.pm
      { s with pm := e.flash, txcrc := crc16 [0xFF - code, e.status], txs := s.txs ++ frameBytes [0xFF - code, e.status] }
    exec (.erasePm code tblpag offset data) s = .next (answer false false) ∧
    exec (.erasePmForce code tblpag offset data) s = .next (answer false true) ∧
    exec (.programPm code tblpag offset data) s = .next (answer true false) ∧
    exec (.programPmForce code tblpag offset data) s = .next (answer true true)

/-- R150, R155 to R158: the same for the data-EEPROM commands. -/
def Obligations.DataEepromCommandsRunTheEngine : Prop :=
  ∀ (code tblpag : Byte) (offset : Word16) (data : List Byte) (s : State), s.hs = true →
    let answer := fun (program force : Bool) =>
      let e := engineRun (eeCall s (flashAddr tblpag offset) program force data) s.ee
      { s with ee := e.flash, txcrc := crc16 [0xFF - code, e.status], txs := s.txs ++ frameBytes [0xFF - code, e.status] }
    exec (.eraseEe code tblpag offset data) s = .next (answer false false) ∧
    exec (.eraseEeForce code tblpag offset data) s = .next (answer false true) ∧
    exec (.programEe code tblpag offset data) s = .next (answer true false) ∧
    exec (.programEeForce code tblpag offset data) s = .next (answer true true)

/-- R159: a code with no region bit, under each policy. -/
def Obligations.NoRegionFollowsItsPolicy : Prop :=
  ∀ (code tblpag : Byte) (offset : Word16) (data : List Byte) (s : State), s.hs = true →
    (s.par.noRegion = .ignore → exec (.noRegion code tblpag offset data) s = .next s) ∧
    (s.par.noRegion = .respondStatus0 → exec (.noRegion code tblpag offset data) s = .next { s with
      txcrc := crc16 [0xFF - code, 0x00], txs := s.txs ++ frameBytes [0xFF - code, 0x00] })

/-- R67: every response code is the one's complement of its request code. -/
def Obligations.ResponseCodesAreComplements : Prop :=
  (∀ code : Byte, responseCode code = ~~~code ∧ responseCode code = code ^^^ 0xFF) ∧
  responseCode 0x00 = 0xFF ∧ responseCode 0x01 = 0xFE ∧ responseCode 0x03 = 0xFC ∧
  [0x08, 0x09, 0x0A, 0x0B, 0x10, 0x11, 0x12, 0x13].map responseCode = [0xF7, 0xF6, 0xF5, 0xF4, 0xEF, 0xEE, 0xED, 0xEC]

/-- R183, R186: in the Connected mode every request a host sends is answered by one frame whose payload the host accepts. -/
def Obligations.HostAcceptsEveryResponse : Prop :=
  ∀ (i : Instr) (s t : State), i.layer = .request → expectedResponseLength i ≠ none →
    s.hs = true → s.par.legal = true → exec i s = .next t →
    ∃ p, t.txs = s.txs ++ frameBytes p ∧ hostAccepts i p = true

/-! ## The Flash Modify Engine (`44_flash_modify_engine.md`) -/

/-- R171, R161: the status is one of seven values, whatever the flash does. -/
def Obligations.EngineStatusIsOneOfSeven : Prop :=
  ∀ (w : Nat) (c : ModifyCall w) (f : Flash w),
    (engineRun c f).status ∈ [0, c.par.stEraseDone, c.par.stEraseDone ||| c.par.stErrorErase, c.par.stProgramDone,
      c.par.stProgramDone ||| c.par.stErrorProgram, c.par.stEraseDone ||| c.par.stProgramDone,
      c.par.stEraseDone ||| c.par.stProgramDone ||| c.par.stErrorProgram]

/-- R162: step 1 does nothing and reports 0. -/
def Obligations.EngineSkipsACorrectRow : Prop :=
  ∀ (w : Nat) (c : ModifyCall w) (f : Flash w), c.program = true → c.force = false →
    c.row f = c.want →
    (engineRun c f).status = 0 ∧ (engineRun c f).flash.cells = f.cells ∧ (engineRun c f).flash.script = f.script

/-- R171, column "Good flash" (R162 to R165, R170): on a row of its region whose coming cycles are good, every case of the table, with the
row's words afterwards and how many cycles were used. -/
def Obligations.EngineTableOnGoodFlash : Prop :=
  ∀ (w : Nat) (c : ModifyCall w) (f : Flash w) (later : List (CycleResult w)),
    rowStated c.span c.units c.addr = true → c.want.length = c.units / 2 →
    f.cells.wf = true → f.script = .good :: .good :: later →
    let n := c.units / 2
    let blank : List (BitVec w) := List.replicate n (BitVec.allOnes w)
    let row := c.row f
    let e := engineRun c f
    let after := c.row e.flash
    (c.program = false → c.force = false → row = blank → e.status = 0 ∧ e.flash.cells = f.cells ∧ e.flash.script = f.script) ∧
    (c.program = false → c.force = false → row ≠ blank →
      e.status = c.par.stEraseDone ∧ after = blank ∧ e.flash.script = .good :: later) ∧
    (c.program = false → c.force = true → e.status = c.par.stEraseDone ∧ after = blank ∧ e.flash.script = .good :: later) ∧
    (c.program = true → c.force = false → row = c.want → e.status = 0 ∧ e.flash.cells = f.cells ∧ e.flash.script = f.script) ∧
    (c.program = true → c.force = false → row = blank → c.want ≠ blank →
      e.status = c.par.stProgramDone ∧ after = c.want ∧ e.flash.script = .good :: later) ∧
    (c.program = true → c.force = false → row ≠ blank → row ≠ c.want → c.want = blank →
      e.status = c.par.stEraseDone ∧ after = blank ∧ e.flash.script = .good :: later) ∧
    (c.program = true → c.force = false → row ≠ blank → row ≠ c.want → c.want ≠ blank →
      e.status = c.par.stEraseDone ||| c.par.stProgramDone ∧ after = c.want ∧ e.flash.script = later) ∧
    (c.program = true → c.force = true →
      e.status = c.par.stEraseDone ||| c.par.stProgramDone ∧ after = c.want ∧ e.flash.script = later)

/-- R171, column "With a failing cycle" (R163, R164): a failed erase returns before any write; a failed write is reported. -/
def Obligations.EngineTableOnFailingCycle : Prop :=
  ∀ (w : Nat) (c : ModifyCall w) (f : Flash w) (left : List (BitVec w)) (later : List (CycleResult w)),
    rowStated c.span c.units c.addr = true → c.want.length = c.units / 2 →
    f.cells.wf = true → left.length = c.units / 2 →
    let n := c.units / 2
    let blank : List (BitVec w) := List.replicate n (BitVec.allOnes w)
    let row := c.row f
    let e := engineRun c f
    let after := c.row e.flash
    (c.force = true ∨ (row ≠ blank ∧ (c.program = true → row ≠ c.want)) → f.script = .leaves left :: later → left ≠ blank →
      e.status = c.par.stEraseDone ||| c.par.stErrorErase ∧ after = left ∧ e.flash.script = later) ∧
    (c.program = true → c.force = false → row = blank → c.want ≠ blank → f.script = .leaves left :: later → left ≠ c.want →
      e.status = c.par.stProgramDone ||| c.par.stErrorProgram ∧ after = left ∧ e.flash.script = later) ∧
    (c.program = true → c.force = true ∨ (row ≠ blank ∧ row ≠ c.want ∧ c.want ≠ blank) →
      f.script = .good :: .leaves left :: later → left ≠ c.want →
      e.status = c.par.stEraseDone ||| c.par.stProgramDone ||| c.par.stErrorProgram ∧ after = left ∧ e.flash.script = later)

/-- T4 (R162, R171): programming the same row twice without force, on good flash: the second call uses no cycle and reports 0. -/
def Obligations.ProgrammingTwiceCyclesOnce : Prop :=
  ∀ (w : Nat) (c : ModifyCall w) (f : Flash w) (later : List (CycleResult w)),
    rowStated c.span c.units c.addr = true → c.want.length = c.units / 2 →
    f.cells.wf = true → f.script = .good :: .good :: later → c.program = true → c.force = false →
    (engineRun c (engineRun c f).flash).status = 0 ∧
    (engineRun c (engineRun c f).flash).flash.cells = (engineRun c f).flash.cells ∧
    (engineRun c (engineRun c f).flash).flash.script = (engineRun c f).flash.script

/-- R56: after a program command that reports no error bit, a read of the row returns the words that were asked for. R44: two reads with
no modify between them return the same words, wherever the device implements memory; that a read elsewhere (U9) or past
`offset = 0xFFFF` (U8) may differ is the model's choice (log entry 9). -/
def Obligations.ReadAfterProgramReturnsTheData : Prop :=
  (∀ (code tblpag : Byte) (offset : Word16) (data : List Byte) (force : Bool) (s : State), s.hs = true → s.par.legal = true →
    rowStated s.par.pmSpan 64 (flashAddr tblpag offset) = true →
    let e := engineRun (pmCall s (flashAddr tblpag offset) true force data) s.pm
    e.status &&& s.par.stErrorErase = 0 → e.status &&& s.par.stErrorProgram = 0 →
    ∃ t u, exec (if force then .programPmForce code tblpag offset data else .programPm code tblpag offset data) s = .next t ∧
      exec (.readRow tblpag offset) t = .next u ∧
      u.txs = t.txs ++ frameBytes (0xFE :: (pmWanted data).flatMap bytesOfPmWord)) ∧
  (∀ (tblpag : Byte) (offset : Word16) (s : State), s.hs = true →
    (∀ i, i < 32 → beforeWrap (flashAddr tblpag offset) i = true ∧ implemented s.par (wordAddr (flashAddr tblpag offset) i) = true) →
    ∃ (t u : State) (answer : List Byte), exec (.readRow tblpag offset) s = .next t ∧ exec (.readRow tblpag offset) t = .next u ∧
      t.txs = s.txs ++ answer ∧ u.txs = t.txs ++ answer)

/-- R150, R169: what a modify command leaves unchanged: every word outside the rows a cycle at the command's address may change
reads as before, the other regions and every register but `TXCRC` are as before. For a row of the region the words that may change are
the row's own; for another address they are the model's choice (log entry 9). -/
def Obligations.ModifyCommandsLeaveOtherWordsAlone : Prop :=
  (∀ (code tblpag : Byte) (offset : Word16) (data : List Byte) (i : Instr) (s t : State), s.pm.cells.wf = true →
    i ∈ [Instr.erasePm code tblpag offset data, .erasePmForce code tblpag offset data, .programPm code tblpag offset data,
      .programPmForce code tblpag offset data] → exec i s = .next t →
    (∀ a, a ∉ cycleAddrs s.par.pmSpan 64 (flashAddr tblpag offset) → t.pm.cells.read a = s.pm.cells.read a) ∧
    t.ee = s.ee ∧ t.cfg = s.cfg ∧ t.rxst = s.rxst ∧ t.esc = s.esc ∧ t.rxlen = s.rxlen ∧ t.rxcnt = s.rxcnt ∧
    t.rxbuf = s.rxbuf ∧ t.rxcrc = s.rxcrc ∧ t.hs = s.hs ∧ t.run = s.run ∧ t.rxs = s.rxs ∧ t.par = s.par) ∧
  (∀ (code tblpag : Byte) (offset : Word16) (data : List Byte) (i : Instr) (s t : State), s.ee.cells.wf = true →
    i ∈ [Instr.eraseEe code tblpag offset data, .eraseEeForce code tblpag offset data, .programEe code tblpag offset data,
      .programEeForce code tblpag offset data] → exec i s = .next t →
    (∀ a, a ∉ cycleAddrs s.par.eeSpan 32 (flashAddr tblpag offset) → t.ee.cells.read a = s.ee.cells.read a) ∧
    t.pm = s.pm ∧ t.cfg = s.cfg ∧ t.rxst = s.rxst ∧ t.esc = s.esc ∧ t.rxlen = s.rxlen ∧ t.rxcnt = s.rxcnt ∧
    t.rxbuf = s.rxbuf ∧ t.rxcrc = s.rxcrc ∧ t.hs = s.hs ∧ t.run = s.run ∧ t.rxs = s.rxs ∧ t.par = s.par) ∧
  (∀ (span : Span) (units : Nat) (addr : FlashAddr) (a : Nat), rowStated span units addr = true →
    (a ∈ cycleAddrs span units addr ↔ ∃ i, i < units / 2 ∧ a = addr.toNat + 2 * i))

/-! ## The whole machine -/

/-- R240, R28: the values the spec gives for reset. -/
def Obligations.ResetLeavesTheBlockUnconnected : Prop :=
  State.reset.rxst = .header ∧ State.reset.esc = false ∧ State.reset.hs = false ∧ State.reset.run = .boot ∧
  State.reset.evlog = [] ∧ State.reset.mode = .unconnected

/-- R240, R242: a reset during a run closes the session and keeps the flash. R50, R260: power loss between a good erase and the write of
a modify leaves the row erased. The rest is the model's choice, not the spec's. Log entry 13: a reset keeps the packet buffer (R15
followed against R28, R240 and R242), the parameters and the bytes already transmitted. Log entry 27: the five points where a modify
can be cut, that no response is sent, and that a cut, in a cycle too, leaves every word outside the rows of the modify's address as it
was, those rows being log entry 9's where the address is no row; what the packet buffer holds after power loss is left free. -/
def Obligations.ResetKeepsFlashAndClosesTheSession : Prop :=
  (∀ (kept : List Byte) (s : State),
    (s.restart kept).pm = s.pm ∧ (s.restart kept).ee = s.ee ∧ (s.restart kept).cfg = s.cfg ∧ (s.restart kept).rxbuf = s.rxbuf ∧
    (s.restart kept).mode = .unconnected ∧ (s.restart kept).rxst = .header ∧ (s.restart kept).esc = false ∧
    (s.restart kept).rxs = kept ∧ (s.restart kept).par = s.par) ∧
  (∀ (cut : CutPoint) (kept ram : List Byte) (s : State), s.pm.cells.wf = true → s.ee.cells.wf = true →
    let t := s.powerLoss cut kept ram
    t.mode = .unconnected ∧ t.rxst = .header ∧ t.esc = false ∧ t.txs = s.txs ∧ t.cfg = s.cfg ∧ t.par = s.par ∧
    t.rxbuf.length = s.rxbuf.length ∧
    (s.hs = false ∨ s.pendingRequest = none → t.pm = s.pm ∧ t.ee = s.ee) ∧
    (∀ (code tblpag : Byte) (offset : Word16) (data : List Byte) (i : Instr), s.pendingRequest = some i →
      i ∈ [Instr.erasePm code tblpag offset data, .erasePmForce code tblpag offset data, .programPm code tblpag offset data,
        .programPmForce code tblpag offset data] →
      t.ee = s.ee ∧
      ∀ a, a ∉ cycleAddrs s.par.pmSpan 64 (flashAddr tblpag offset) → t.pm.cells.read a = s.pm.cells.read a) ∧
    (∀ (code tblpag : Byte) (offset : Word16) (data : List Byte) (i : Instr), s.pendingRequest = some i →
      i ∈ [Instr.eraseEe code tblpag offset data, .eraseEeForce code tblpag offset data, .programEe code tblpag offset data,
        .programEeForce code tblpag offset data] →
      t.pm = s.pm ∧
      ∀ a, a ∉ cycleAddrs s.par.eeSpan 32 (flashAddr tblpag offset) → t.ee.cells.read a = s.ee.cells.read a)) ∧
  (∀ (w : Nat) (c : ModifyCall w) (f : Flash w) (later : List (CycleResult w)),
    rowStated c.span c.units c.addr = true → f.cells.wf = true → f.script = .good :: later → c.force = true →
    c.row (engineCut c .beforeErase f) = c.row f ∧
    c.row (engineCut c .beforeWrite f) = List.replicate (c.units / 2) (BitVec.allOnes w))

/-- The invariant holds at reset. -/
def Obligations.ResetMeetsTheInvariant : Prop := State.reset.Inv

/-- The invariant is kept by every step (R6, R11, R13, R14, R40, R114, R123). The addresses of configuration words are the model's choice
(log entry 21). -/
def Obligations.StepKeepsTheInvariant : Prop := ∀ s t : State, s.Inv → step s = .next t → t.Inv

/-- R123 (c), (d), R244: in a state of the invariant no step faults, and with no validity check every step answers a next state. -/
def Obligations.StepNeverFaults : Prop :=
  ∀ s : State, s.Inv → NoFault (step s) ∧ (s.par.startChecksValid = false → Runs (step s))

/-- R18: `HS` is set by an accepted packet with code `0x00` and by nothing else, and no step clears it; only reset does. -/
def Obligations.HandshakeFlagIsSetOnceAndKept : Prop :=
  (∀ s t : State, step s = .next t → s.hs = true → t.hs = true) ∧
  (∀ s t : State, step s = .next t → s.hs = false → t.hs = true → s.accepting = true ∧ s.code = 0x00) ∧
  (∀ s t : State, step s = .next t → s.accepting = true → s.code = 0x00 → t.hs = true) ∧
  (∀ (kept : List Byte) (s : State), (s.restart kept).hs = false)

/-- R225: the modes change only as the table says: Unconnected to Connected by an accepted HANDSHAKE, Connected to Started by an
accepted START_APP. -/
def Obligations.ModesChangeOnlyByHandshakeAndStart : Prop :=
  ∀ s t : State, step s = .next t → t.mode ≠ s.mode →
    (s.mode = .unconnected ∧ t.mode = .connected ∧ s.accepting = true ∧ s.code = 0x00) ∨
    (s.mode = .connected ∧ t.mode = .started ∧ s.accepting = true ∧ s.code = 0x03)

/-- R130, R222: no response, no flash access and no mode change without an accepted packet. -/
def Obligations.NothingHappensWithoutAnAcceptedPacket : Prop :=
  ∀ s t : State, step s = .next t → s.accepting = false →
    t.txs = s.txs ∧ t.txcrc = s.txcrc ∧ t.pm = s.pm ∧ t.ee = s.ee ∧ t.cfg = s.cfg ∧ t.hs = s.hs ∧ t.run = s.run ∧
    t.par = s.par

/-- R53, R101: a step appends to `TXS` nothing or one whole frame, of a payload of 1, 2, 16 or 97 bytes. -/
def Obligations.ResponsesAreAppendedWhole : Prop :=
  ∀ s t : State, s.par.legal = true → step s = .next t →
    t.txs = s.txs ∨ ∃ p, p.length ∈ [1, 2, 16, 97] ∧ t.txs = s.txs ++ frameBytes p

/-- R221: "One raw byte raises at most one event". -/
def Obligations.StepRaisesAtMostOneEvent : Prop :=
  ∀ s t : State, step s = .next t → t.evlog = s.evlog ∨ ∃ e, t.evlog = s.evlog ++ [e]

/-- R222: an event leaves the mode, the packet buffer and its length, the transmit side and the flash alone; the framer ends in `HEADER`,
or in `LENGTH` after a resynchronisation, with no escape pending after an escape error. -/
def Obligations.EventsDropWithoutSideEffect : Prop :=
  ∀ (s t : State) (e : Event), step s = .next t → t.evlog = s.evlog ++ [e] →
    t.hs = s.hs ∧ t.run = s.run ∧ t.rxbuf = s.rxbuf ∧ t.rxlen = s.rxlen ∧ t.rxcnt = s.rxcnt ∧ t.txcrc = s.txcrc ∧
    t.txs = s.txs ∧ t.pm = s.pm ∧ t.ee = s.ee ∧ t.cfg = s.cfg ∧ t.esc = false ∧
    (∀ st, e = .resync st → t.rxst = .length) ∧ ((∀ st, e ≠ .resync st) → t.rxst = .header)

/-- R250: a step consumes at most one waiting byte, and one whenever the block runs and a byte waits. -/
def Obligations.StepConsumesAtMostOneByte : Prop :=
  ∀ s t : State, step s = .next t →
    (t.rxs = s.rxs ∨ ∃ r, s.rxs = r :: t.rxs) ∧
    (s.run = .boot → ∀ (r : Byte) (rest : List Byte), s.rxs = r :: rest → t.rxs = rest)

/-- R47: no step modifies configuration memory; no step writes a parameter. R40, R51: READ_ROW outside program memory reaches a
configuration word, and the identity word at `0xFF0000`. The model's choice, not the spec's: that configuration words stand two
address units apart, that a configuration word's valid bits stand at their own places in bits 15:0 of the 24-bit word, that its
reserved bits and the eight bits above it are free (all log entry 21), and where the identity word yields to another region (log
entry 28). -/
def Obligations.ConfigurationMemoryIsNeverModified : Prop :=
  (∀ s t : State, step s = .next t → t.cfg = s.cfg ∧ t.par = s.par) ∧
  (∀ (tblpag : Byte) (offset : Word16) (s : State), s.hs = true →
    ∃ (t : State) (words : List PmWord), exec (.readRow tblpag offset) s = .next t ∧ words.length = 32 ∧
      t.txs = s.txs ++ frameBytes (0xFE :: words.flatMap bytesOfPmWord) ∧
      ∀ (i : Nat) (word : PmWord), words[i]? = some word → beforeWrap (flashAddr tblpag offset) i = true →
        let a := wordAddr (flashAddr tblpag offset) i
        hasWord s.par.pmSpan a = false →
        (∀ mask, hasWord s.par.cfgSpan a = true → s.par.cfgMask[(a - s.par.cfgSpan.base) / 2]? = some mask →
          ∀ j, j < 16 → mask.getLsbD j = true → word.getLsbD j = (s.cfg.read a).getLsbD j) ∧
        (hasWord s.par.cfgSpan a = false → a = 0xFF0000 → word = s.par.deviceId))

/-- R41, R251: a channel event touches only the waiting bytes, and never fills the channel beyond `CHANNEL_DEPTH`. -/
def Obligations.ChannelEventsTouchOnlyWaitingBytes : Prop :=
  ∀ (e : ChannelEvent) (s : State), s.channel e = { s with rxs := (s.channel e).rxs } ∧
    (s.rxs.length ≤ s.par.channelDepth → (s.channel e).rxs.length ≤ s.par.channelDepth)

/-! ## Encoding -/

/-- Decoding the encoding of a well-formed instruction gives it back, with every operand (R60, R61, R66, R70 to R77, R104). -/
def Obligations.DecodeInvertsEncode : Prop :=
  ∀ i : Instr, i.wellFormed = true → decode i.layer (encode i) = .ok i

/-- On the layers where every byte sequence has at most one meaning, encoding what was decoded gives the bytes back (R61, R67,
R93, R103). -/
def Obligations.EncodeInvertsDecode : Prop :=
  ∀ (l : Layer) (bytes : List Byte) (i : Instr), l ≠ .request → decode l bytes = .ok i →
    encode i = bytes ∧ i.layer = l ∧ i.wellFormed = true

/-- R78: the map of all 256 request codes, by its six rows and their counts. -/
def Obligations.CommandMapHasItsCounts : Prop :=
  (∀ code : Byte, ∃ i, decodeRequest (code :: List.replicate 99 0) = .ok i ∧ i.wellFormed = true) ∧
  ((List.range 256).countP fun c => (decodeRequest (BitVec.ofNat 8 c :: List.replicate 99 0)).toOption matches some .handshake) = 1 ∧
  ((List.range 256).countP fun c => (decodeRequest (BitVec.ofNat 8 c :: List.replicate 99 0)).toOption matches some (.readRow _ _)) = 1 ∧
  ((List.range 256).countP fun c => (decodeRequest (BitVec.ofNat 8 c :: List.replicate 99 0)).toOption matches some .startApp) = 1 ∧
  ((List.range 256).countP fun c => (decodeRequest (BitVec.ofNat 8 c :: List.replicate 99 0)).toOption matches
    some (.erasePm _ _ _ _) | some (.erasePmForce _ _ _ _) | some (.programPm _ _ _ _) | some (.programPmForce _ _ _ _)) = 128 ∧
  ((List.range 256).countP fun c => (decodeRequest (BitVec.ofNat 8 c :: List.replicate 99 0)).toOption matches
    some (.eraseEe _ _ _ _) | some (.eraseEeForce _ _ _ _) | some (.programEe _ _ _ _) | some (.programEeForce _ _ _ _)) = 64 ∧
  ((List.range 256).countP fun c => (decodeRequest (BitVec.ofNat 8 c :: List.replicate 99 0)).toOption matches some (.noRegion _ _ _ _)) = 61

/-- Words written out from the spec's encodings decode to the instructions they stand for (R60, R61, R70, R72, R74, R75, R76). -/
def Obligations.WrittenOutWordsDecode : Prop :=
  decodeRequest [0x00] = .ok .handshake ∧
  decodeRequest [0x01, 0xFF, 0x00, 0x00] = .ok (.readRow 0xFF 0x0000) ∧
  decodeRequest [0x01, 0x00, 0x00, 0x01] = .ok (.readRow 0x00 0x0100) ∧
  decodeRequest [0x03] = .ok .startApp ∧
  decodeResponse [0xFC] = .ok .startAppRsp ∧
  decodeResponse [0xF5, 0x04] = .ok (.modifyRsp 0x0A 0x04) ∧
  decodeSymbol [0xAE] = .ok .frameStart ∧
  decodeSymbol [0xAD, 0x00] = .ok .escAd ∧
  decodeSymbol [0xAD, 0x01] = .ok .escAe ∧
  decodeSymbol [0x55] = .ok (.literal 0x55) ∧
  decodeFrame [0xAE, 0x01, 0x00, 0x87, 0x0F] = .ok (.frame [0x00])

/-! ## The host peer (`45_host_peer.md`) -/

/-- R191, R192: a patched vector is read back but for bits 0 and 23. -/
def Obligations.UnpatchInvertsPatch : Prop :=
  (∀ v : PmWord, unpatchVector (patchVector v) = v &&& 0x7FFFFE) ∧
  (∀ v : PmWord, v.getLsbD 0 = false → v.getLsbD 23 = false → unpatchVector (patchVector v) = v)
end

