-- ==== Sys2Proof/Laws/State.lean ====
section
/-! SUPPORT. One lemma per field of State for each named update, so that no proof unfolds a record update. -/

namespace Sys2Proof.Machine

variable (s : State)

@[simp] theorem raise_rxst (e : Event) : (State.raise e s).rxst = s.rxst := rfl
@[simp] theorem raise_esc (e : Event) : (State.raise e s).esc = s.esc := rfl
@[simp] theorem raise_rxlen (e : Event) : (State.raise e s).rxlen = s.rxlen := rfl
@[simp] theorem raise_rxcnt (e : Event) : (State.raise e s).rxcnt = s.rxcnt := rfl
@[simp] theorem raise_rxbuf (e : Event) : (State.raise e s).rxbuf = s.rxbuf := rfl
@[simp] theorem raise_rxcrc (e : Event) : (State.raise e s).rxcrc = s.rxcrc := rfl
@[simp] theorem raise_txcrc (e : Event) : (State.raise e s).txcrc = s.txcrc := rfl
@[simp] theorem raise_hs (e : Event) : (State.raise e s).hs = s.hs := rfl
@[simp] theorem raise_run (e : Event) : (State.raise e s).run = s.run := rfl
@[simp] theorem raise_evlog (e : Event) : (State.raise e s).evlog = s.evlog ++ [e] := rfl
@[simp] theorem raise_rxs (e : Event) : (State.raise e s).rxs = s.rxs := rfl
@[simp] theorem raise_txs (e : Event) : (State.raise e s).txs = s.txs := rfl
@[simp] theorem raise_pm (e : Event) : (State.raise e s).pm = s.pm := rfl
@[simp] theorem raise_ee (e : Event) : (State.raise e s).ee = s.ee := rfl
@[simp] theorem raise_cfg (e : Event) : (State.raise e s).cfg = s.cfg := rfl
@[simp] theorem raise_par (e : Event) : (State.raise e s).par = s.par := rfl

@[simp] theorem takeEvent_rxst (e : Event) (t : RxState) : (State.takeEvent e t s).rxst = t := rfl
@[simp] theorem takeEvent_esc (e : Event) (t : RxState) : (State.takeEvent e t s).esc = s.esc := rfl
@[simp] theorem takeEvent_rxlen (e : Event) (t : RxState) : (State.takeEvent e t s).rxlen = s.rxlen := rfl
@[simp] theorem takeEvent_rxcnt (e : Event) (t : RxState) : (State.takeEvent e t s).rxcnt = s.rxcnt := rfl
@[simp] theorem takeEvent_rxbuf (e : Event) (t : RxState) : (State.takeEvent e t s).rxbuf = s.rxbuf := rfl
@[simp] theorem takeEvent_rxcrc (e : Event) (t : RxState) : (State.takeEvent e t s).rxcrc = s.rxcrc := rfl
@[simp] theorem takeEvent_txcrc (e : Event) (t : RxState) : (State.takeEvent e t s).txcrc = s.txcrc := rfl
@[simp] theorem takeEvent_hs (e : Event) (t : RxState) : (State.takeEvent e t s).hs = s.hs := rfl
@[simp] theorem takeEvent_run (e : Event) (t : RxState) : (State.takeEvent e t s).run = s.run := rfl
@[simp] theorem takeEvent_evlog (e : Event) (t : RxState) : (State.takeEvent e t s).evlog = s.evlog ++ [e] := rfl
@[simp] theorem takeEvent_rxs (e : Event) (t : RxState) : (State.takeEvent e t s).rxs = s.rxs := rfl
@[simp] theorem takeEvent_txs (e : Event) (t : RxState) : (State.takeEvent e t s).txs = s.txs := rfl
@[simp] theorem takeEvent_pm (e : Event) (t : RxState) : (State.takeEvent e t s).pm = s.pm := rfl
@[simp] theorem takeEvent_ee (e : Event) (t : RxState) : (State.takeEvent e t s).ee = s.ee := rfl
@[simp] theorem takeEvent_cfg (e : Event) (t : RxState) : (State.takeEvent e t s).cfg = s.cfg := rfl
@[simp] theorem takeEvent_par (e : Event) (t : RxState) : (State.takeEvent e t s).par = s.par := rfl

@[simp] theorem storeByte_rxst (i : Nat) (d : Byte) : (State.storeByte i d s).rxst = s.rxst := rfl
@[simp] theorem storeByte_esc (i : Nat) (d : Byte) : (State.storeByte i d s).esc = s.esc := rfl
@[simp] theorem storeByte_rxlen (i : Nat) (d : Byte) : (State.storeByte i d s).rxlen = s.rxlen := rfl
@[simp] theorem storeByte_rxcnt (i : Nat) (d : Byte) : (State.storeByte i d s).rxcnt = s.rxcnt := rfl
@[simp] theorem storeByte_rxbuf (i : Nat) (d : Byte) : (State.storeByte i d s).rxbuf = s.rxbuf.set i d := rfl
@[simp] theorem storeByte_rxcrc (i : Nat) (d : Byte) : (State.storeByte i d s).rxcrc = s.rxcrc := rfl
@[simp] theorem storeByte_txcrc (i : Nat) (d : Byte) : (State.storeByte i d s).txcrc = s.txcrc := rfl
@[simp] theorem storeByte_hs (i : Nat) (d : Byte) : (State.storeByte i d s).hs = s.hs := rfl
@[simp] theorem storeByte_run (i : Nat) (d : Byte) : (State.storeByte i d s).run = s.run := rfl
@[simp] theorem storeByte_evlog (i : Nat) (d : Byte) : (State.storeByte i d s).evlog = s.evlog := rfl
@[simp] theorem storeByte_rxs (i : Nat) (d : Byte) : (State.storeByte i d s).rxs = s.rxs := rfl
@[simp] theorem storeByte_txs (i : Nat) (d : Byte) : (State.storeByte i d s).txs = s.txs := rfl
@[simp] theorem storeByte_pm (i : Nat) (d : Byte) : (State.storeByte i d s).pm = s.pm := rfl
@[simp] theorem storeByte_ee (i : Nat) (d : Byte) : (State.storeByte i d s).ee = s.ee := rfl
@[simp] theorem storeByte_cfg (i : Nat) (d : Byte) : (State.storeByte i d s).cfg = s.cfg := rfl
@[simp] theorem storeByte_par (i : Nat) (d : Byte) : (State.storeByte i d s).par = s.par := rfl

/-! SEND: the proofs stand in parentheses so that a rewrite cites the lemma and never compares the payload's CRC by evaluation. -/

@[simp] theorem send_rxst (p : List Byte) : (State.send p s).rxst = s.rxst := (rfl)
@[simp] theorem send_esc (p : List Byte) : (State.send p s).esc = s.esc := (rfl)
@[simp] theorem send_rxlen (p : List Byte) : (State.send p s).rxlen = s.rxlen := (rfl)
@[simp] theorem send_rxcnt (p : List Byte) : (State.send p s).rxcnt = s.rxcnt := (rfl)
@[simp] theorem send_rxbuf (p : List Byte) : (State.send p s).rxbuf = s.rxbuf := (rfl)
@[simp] theorem send_rxcrc (p : List Byte) : (State.send p s).rxcrc = s.rxcrc := (rfl)
@[simp] theorem send_txcrc (p : List Byte) : (State.send p s).txcrc = crc16 p := (rfl)
@[simp] theorem send_hs (p : List Byte) : (State.send p s).hs = s.hs := (rfl)
@[simp] theorem send_run (p : List Byte) : (State.send p s).run = s.run := (rfl)
@[simp] theorem send_evlog (p : List Byte) : (State.send p s).evlog = s.evlog := (rfl)
@[simp] theorem send_rxs (p : List Byte) : (State.send p s).rxs = s.rxs := (rfl)
@[simp] theorem send_txs (p : List Byte) : (State.send p s).txs = s.txs ++ frameBytes p := (rfl)
@[simp] theorem send_pm (p : List Byte) : (State.send p s).pm = s.pm := (rfl)
@[simp] theorem send_ee (p : List Byte) : (State.send p s).ee = s.ee := (rfl)
@[simp] theorem send_cfg (p : List Byte) : (State.send p s).cfg = s.cfg := (rfl)
@[simp] theorem send_par (p : List Byte) : (State.send p s).par = s.par := (rfl)

@[simp] theorem channel_rxst (e : ChannelEvent) : (State.channel e s).rxst = s.rxst := rfl
@[simp] theorem channel_esc (e : ChannelEvent) : (State.channel e s).esc = s.esc := rfl
@[simp] theorem channel_rxlen (e : ChannelEvent) : (State.channel e s).rxlen = s.rxlen := rfl
@[simp] theorem channel_rxcnt (e : ChannelEvent) : (State.channel e s).rxcnt = s.rxcnt := rfl
@[simp] theorem channel_rxbuf (e : ChannelEvent) : (State.channel e s).rxbuf = s.rxbuf := rfl
@[simp] theorem channel_rxcrc (e : ChannelEvent) : (State.channel e s).rxcrc = s.rxcrc := rfl
@[simp] theorem channel_txcrc (e : ChannelEvent) : (State.channel e s).txcrc = s.txcrc := rfl
@[simp] theorem channel_hs (e : ChannelEvent) : (State.channel e s).hs = s.hs := rfl
@[simp] theorem channel_run (e : ChannelEvent) : (State.channel e s).run = s.run := rfl
@[simp] theorem channel_evlog (e : ChannelEvent) : (State.channel e s).evlog = s.evlog := rfl
@[simp] theorem channel_rxs (e : ChannelEvent) : (State.channel e s).rxs = channelBytes s.par.channelDepth s.rxs e := rfl
@[simp] theorem channel_txs (e : ChannelEvent) : (State.channel e s).txs = s.txs := rfl
@[simp] theorem channel_pm (e : ChannelEvent) : (State.channel e s).pm = s.pm := rfl
@[simp] theorem channel_ee (e : ChannelEvent) : (State.channel e s).ee = s.ee := rfl
@[simp] theorem channel_cfg (e : ChannelEvent) : (State.channel e s).cfg = s.cfg := rfl
@[simp] theorem channel_par (e : ChannelEvent) : (State.channel e s).par = s.par := rfl

@[simp] theorem escapeStart_rxst : (escapeStart s).rxst = s.rxst := rfl
@[simp] theorem escapeStart_esc : (escapeStart s).esc = escapeFlagAfterPrefix s := rfl
@[simp] theorem escapeStart_rxlen : (escapeStart s).rxlen = s.rxlen := rfl
@[simp] theorem escapeStart_rxcnt : (escapeStart s).rxcnt = s.rxcnt := rfl
@[simp] theorem escapeStart_rxbuf : (escapeStart s).rxbuf = s.rxbuf := rfl
@[simp] theorem escapeStart_rxcrc : (escapeStart s).rxcrc = s.rxcrc := rfl
@[simp] theorem escapeStart_txcrc : (escapeStart s).txcrc = s.txcrc := rfl
@[simp] theorem escapeStart_hs : (escapeStart s).hs = s.hs := rfl
@[simp] theorem escapeStart_run : (escapeStart s).run = s.run := rfl
@[simp] theorem escapeStart_evlog : (escapeStart s).evlog = s.evlog := rfl
@[simp] theorem escapeStart_rxs : (escapeStart s).rxs = s.rxs := rfl
@[simp] theorem escapeStart_txs : (escapeStart s).txs = s.txs := rfl
@[simp] theorem escapeStart_pm : (escapeStart s).pm = s.pm := rfl
@[simp] theorem escapeStart_ee : (escapeStart s).ee = s.ee := rfl
@[simp] theorem escapeStart_cfg : (escapeStart s).cfg = s.cfg := rfl
@[simp] theorem escapeStart_par : (escapeStart s).par = s.par := rfl

@[simp] theorem escapeFault_rxst (r : Byte) : (escapeFault r s).rxst = .header := rfl
@[simp] theorem escapeFault_esc (r : Byte) : (escapeFault r s).esc = false := rfl
@[simp] theorem escapeFault_rxlen (r : Byte) : (escapeFault r s).rxlen = s.rxlen := rfl
@[simp] theorem escapeFault_rxcnt (r : Byte) : (escapeFault r s).rxcnt = s.rxcnt := rfl
@[simp] theorem escapeFault_rxbuf (r : Byte) : (escapeFault r s).rxbuf = s.rxbuf := rfl
@[simp] theorem escapeFault_rxcrc (r : Byte) : (escapeFault r s).rxcrc = s.rxcrc := rfl
@[simp] theorem escapeFault_txcrc (r : Byte) : (escapeFault r s).txcrc = s.txcrc := rfl
@[simp] theorem escapeFault_hs (r : Byte) : (escapeFault r s).hs = s.hs := rfl
@[simp] theorem escapeFault_run (r : Byte) : (escapeFault r s).run = s.run := rfl
@[simp] theorem escapeFault_evlog (r : Byte) : (escapeFault r s).evlog = s.evlog ++ [.escapeError r] := rfl
@[simp] theorem escapeFault_rxs (r : Byte) : (escapeFault r s).rxs = s.rxs := rfl
@[simp] theorem escapeFault_txs (r : Byte) : (escapeFault r s).txs = s.txs := rfl
@[simp] theorem escapeFault_pm (r : Byte) : (escapeFault r s).pm = s.pm := rfl
@[simp] theorem escapeFault_ee (r : Byte) : (escapeFault r s).ee = s.ee := rfl
@[simp] theorem escapeFault_cfg (r : Byte) : (escapeFault r s).cfg = s.cfg := rfl
@[simp] theorem escapeFault_par (r : Byte) : (escapeFault r s).par = s.par := rfl

@[simp] theorem crcLow_rxst (d : Byte) : (crcLow d s).rxst = .crcMsb := rfl
@[simp] theorem crcLow_esc (d : Byte) : (crcLow d s).esc = s.esc := rfl
@[simp] theorem crcLow_rxlen (d : Byte) : (crcLow d s).rxlen = s.rxlen := rfl
@[simp] theorem crcLow_rxcnt (d : Byte) : (crcLow d s).rxcnt = s.rxcnt := rfl
@[simp] theorem crcLow_rxbuf (d : Byte) : (crcLow d s).rxbuf = s.rxbuf := rfl
@[simp] theorem crcLow_rxcrc (d : Byte) : (crcLow d s).rxcrc = crcUpdate s.rxcrc d := rfl
@[simp] theorem crcLow_txcrc (d : Byte) : (crcLow d s).txcrc = s.txcrc := rfl
@[simp] theorem crcLow_hs (d : Byte) : (crcLow d s).hs = s.hs := rfl
@[simp] theorem crcLow_run (d : Byte) : (crcLow d s).run = s.run := rfl
@[simp] theorem crcLow_evlog (d : Byte) : (crcLow d s).evlog = s.evlog := rfl
@[simp] theorem crcLow_rxs (d : Byte) : (crcLow d s).rxs = s.rxs := rfl
@[simp] theorem crcLow_txs (d : Byte) : (crcLow d s).txs = s.txs := rfl
@[simp] theorem crcLow_pm (d : Byte) : (crcLow d s).pm = s.pm := rfl
@[simp] theorem crcLow_ee (d : Byte) : (crcLow d s).ee = s.ee := rfl
@[simp] theorem crcLow_cfg (d : Byte) : (crcLow d s).cfg = s.cfg := rfl
@[simp] theorem crcLow_par (d : Byte) : (crcLow d s).par = s.par := rfl

@[simp] theorem drawn_cells {w : Nat} (f : Flash w) : f.drawn.cells = f.cells := rfl
@[simp] theorem drawn_script {w : Nat} (f : Flash w) : f.drawn.script = f.script := rfl
@[simp] theorem drawn_draws {w : Nat} (f : Flash w) : f.drawn.draws = f.draws + 1 := rfl
@[simp] theorem drawn_cycles {w : Nat} (f : Flash w) : f.drawn.cycles = f.cycles := rfl

/-! The views: where each region lies and its row size. -/

@[simp] theorem pmView_span : s.pmView.span = s.par.pmSpan := rfl
@[simp] theorem pmView_units : s.pmView.units = 64 := rfl
@[simp] theorem pmView_par : s.pmView.par = s.par := rfl
@[simp] theorem pmView_cfg : s.pmView.cfg = s.cfg := rfl
@[simp] theorem pmView_others : s.pmView.others = s.ee.cycles := rfl
@[simp] theorem eeView_span : s.eeView.span = s.par.eeSpan := rfl
@[simp] theorem eeView_units : s.eeView.units = 32 := rfl
@[simp] theorem eeView_par : s.eeView.par = s.par := rfl
@[simp] theorem eeView_cfg : s.eeView.cfg = s.cfg := rfl
@[simp] theorem eeView_others : s.eeView.others = s.pm.cycles := rfl

@[simp] theorem restart_rxst (kept : List Byte) : (State.restart kept s).rxst = .header := rfl
@[simp] theorem restart_esc (kept : List Byte) : (State.restart kept s).esc = false := rfl
@[simp] theorem restart_rxlen (kept : List Byte) : (State.restart kept s).rxlen = 0 := rfl
@[simp] theorem restart_rxcnt (kept : List Byte) : (State.restart kept s).rxcnt = 0 := rfl
@[simp] theorem restart_rxbuf (kept : List Byte) : (State.restart kept s).rxbuf = s.rxbuf := rfl
@[simp] theorem restart_rxcrc (kept : List Byte) : (State.restart kept s).rxcrc = 0 := rfl
@[simp] theorem restart_txcrc (kept : List Byte) : (State.restart kept s).txcrc = 0 := rfl
@[simp] theorem restart_hs (kept : List Byte) : (State.restart kept s).hs = false := rfl
@[simp] theorem restart_run (kept : List Byte) : (State.restart kept s).run = .boot := rfl
@[simp] theorem restart_evlog (kept : List Byte) : (State.restart kept s).evlog = [] := rfl
@[simp] theorem restart_rxs (kept : List Byte) : (State.restart kept s).rxs = kept := rfl
@[simp] theorem restart_txs (kept : List Byte) : (State.restart kept s).txs = s.txs := rfl
@[simp] theorem restart_pm (kept : List Byte) : (State.restart kept s).pm = s.pm := rfl
@[simp] theorem restart_ee (kept : List Byte) : (State.restart kept s).ee = s.ee := rfl
@[simp] theorem restart_cfg (kept : List Byte) : (State.restart kept s).cfg = s.cfg := rfl
@[simp] theorem restart_par (kept : List Byte) : (State.restart kept s).par = s.par := rfl

@[simp] theorem cutPm_rxst (cut : CutPoint) (t : Byte) (o : Word16) (p f : Bool) (d : List Byte) : (State.cutPm cut t o p f d s).rxst = s.rxst := rfl
@[simp] theorem cutPm_esc (cut : CutPoint) (t : Byte) (o : Word16) (p f : Bool) (d : List Byte) : (State.cutPm cut t o p f d s).esc = s.esc := rfl
@[simp] theorem cutPm_rxlen (cut : CutPoint) (t : Byte) (o : Word16) (p f : Bool) (d : List Byte) : (State.cutPm cut t o p f d s).rxlen = s.rxlen := rfl
@[simp] theorem cutPm_rxcnt (cut : CutPoint) (t : Byte) (o : Word16) (p f : Bool) (d : List Byte) : (State.cutPm cut t o p f d s).rxcnt = s.rxcnt := rfl
@[simp] theorem cutPm_rxbuf (cut : CutPoint) (t : Byte) (o : Word16) (p f : Bool) (d : List Byte) : (State.cutPm cut t o p f d s).rxbuf = s.rxbuf := rfl
@[simp] theorem cutPm_rxcrc (cut : CutPoint) (t : Byte) (o : Word16) (p f : Bool) (d : List Byte) : (State.cutPm cut t o p f d s).rxcrc = s.rxcrc := rfl
@[simp] theorem cutPm_txcrc (cut : CutPoint) (t : Byte) (o : Word16) (p f : Bool) (d : List Byte) : (State.cutPm cut t o p f d s).txcrc = s.txcrc := rfl
@[simp] theorem cutPm_hs (cut : CutPoint) (t : Byte) (o : Word16) (p f : Bool) (d : List Byte) : (State.cutPm cut t o p f d s).hs = s.hs := rfl
@[simp] theorem cutPm_run (cut : CutPoint) (t : Byte) (o : Word16) (p f : Bool) (d : List Byte) : (State.cutPm cut t o p f d s).run = s.run := rfl
@[simp] theorem cutPm_evlog (cut : CutPoint) (t : Byte) (o : Word16) (p f : Bool) (d : List Byte) : (State.cutPm cut t o p f d s).evlog = s.evlog := rfl
@[simp] theorem cutPm_rxs (cut : CutPoint) (t : Byte) (o : Word16) (p f : Bool) (d : List Byte) : (State.cutPm cut t o p f d s).rxs = s.rxs := rfl
@[simp] theorem cutPm_txs (cut : CutPoint) (t : Byte) (o : Word16) (p f : Bool) (d : List Byte) : (State.cutPm cut t o p f d s).txs = s.txs := rfl
@[simp] theorem cutPm_pm (cut : CutPoint) (t : Byte) (o : Word16) (p f : Bool) (d : List Byte) : (State.cutPm cut t o p f d s).pm = engineCut (pmCall s (flashAddr t o) p f d) cut s.pm := rfl
@[simp] theorem cutPm_ee (cut : CutPoint) (t : Byte) (o : Word16) (p f : Bool) (d : List Byte) : (State.cutPm cut t o p f d s).ee = s.ee := rfl
@[simp] theorem cutPm_cfg (cut : CutPoint) (t : Byte) (o : Word16) (p f : Bool) (d : List Byte) : (State.cutPm cut t o p f d s).cfg = s.cfg := rfl
@[simp] theorem cutPm_par (cut : CutPoint) (t : Byte) (o : Word16) (p f : Bool) (d : List Byte) : (State.cutPm cut t o p f d s).par = s.par := rfl

@[simp] theorem cutEe_rxst (cut : CutPoint) (t : Byte) (o : Word16) (p f : Bool) (d : List Byte) : (State.cutEe cut t o p f d s).rxst = s.rxst := rfl
@[simp] theorem cutEe_esc (cut : CutPoint) (t : Byte) (o : Word16) (p f : Bool) (d : List Byte) : (State.cutEe cut t o p f d s).esc = s.esc := rfl
@[simp] theorem cutEe_rxlen (cut : CutPoint) (t : Byte) (o : Word16) (p f : Bool) (d : List Byte) : (State.cutEe cut t o p f d s).rxlen = s.rxlen := rfl
@[simp] theorem cutEe_rxcnt (cut : CutPoint) (t : Byte) (o : Word16) (p f : Bool) (d : List Byte) : (State.cutEe cut t o p f d s).rxcnt = s.rxcnt := rfl
@[simp] theorem cutEe_rxbuf (cut : CutPoint) (t : Byte) (o : Word16) (p f : Bool) (d : List Byte) : (State.cutEe cut t o p f d s).rxbuf = s.rxbuf := rfl
@[simp] theorem cutEe_rxcrc (cut : CutPoint) (t : Byte) (o : Word16) (p f : Bool) (d : List Byte) : (State.cutEe cut t o p f d s).rxcrc = s.rxcrc := rfl
@[simp] theorem cutEe_txcrc (cut : CutPoint) (t : Byte) (o : Word16) (p f : Bool) (d : List Byte) : (State.cutEe cut t o p f d s).txcrc = s.txcrc := rfl
@[simp] theorem cutEe_hs (cut : CutPoint) (t : Byte) (o : Word16) (p f : Bool) (d : List Byte) : (State.cutEe cut t o p f d s).hs = s.hs := rfl
@[simp] theorem cutEe_run (cut : CutPoint) (t : Byte) (o : Word16) (p f : Bool) (d : List Byte) : (State.cutEe cut t o p f d s).run = s.run := rfl
@[simp] theorem cutEe_evlog (cut : CutPoint) (t : Byte) (o : Word16) (p f : Bool) (d : List Byte) : (State.cutEe cut t o p f d s).evlog = s.evlog := rfl
@[simp] theorem cutEe_rxs (cut : CutPoint) (t : Byte) (o : Word16) (p f : Bool) (d : List Byte) : (State.cutEe cut t o p f d s).rxs = s.rxs := rfl
@[simp] theorem cutEe_txs (cut : CutPoint) (t : Byte) (o : Word16) (p f : Bool) (d : List Byte) : (State.cutEe cut t o p f d s).txs = s.txs := rfl
@[simp] theorem cutEe_pm (cut : CutPoint) (t : Byte) (o : Word16) (p f : Bool) (d : List Byte) : (State.cutEe cut t o p f d s).pm = s.pm := rfl
@[simp] theorem cutEe_ee (cut : CutPoint) (t : Byte) (o : Word16) (p f : Bool) (d : List Byte) : (State.cutEe cut t o p f d s).ee = engineCut (eeCall s (flashAddr t o) p f d) cut s.ee := rfl
@[simp] theorem cutEe_cfg (cut : CutPoint) (t : Byte) (o : Word16) (p f : Bool) (d : List Byte) : (State.cutEe cut t o p f d s).cfg = s.cfg := rfl
@[simp] theorem cutEe_par (cut : CutPoint) (t : Byte) (o : Word16) (p f : Bool) (d : List Byte) : (State.cutEe cut t o p f d s).par = s.par := rfl

end Sys2Proof.Machine
end

