-- ==== Sys2Proof/Laws/Memory.lean ====
section
/-! SUPPORT. The laws of flash words: a read after a write, the canonical form, and that equal reads are equal lists need no more. -/

namespace Sys2Proof.Machine

variable {w : Nat}

theorem wfAbove_mono {lo lo' : Nat} (h : lo' ≤ lo) {m : Memory w} (hm : Memory.wfAbove lo m = true) :
    Memory.wfAbove lo' m = true := by
  cases m with
  | nil => rfl
  | cons c rest =>
    obtain ⟨a, v⟩ := c
    simp only [Memory.wfAbove, Bool.and_eq_true, decide_eq_true_eq] at hm ⊢
    exact ⟨⟨by omega, hm.1.2⟩, hm.2⟩

/-- Below the first listed address a canonical memory is erased. -/
theorem read_below {lo a : Nat} {m : Memory w} (hm : Memory.wfAbove lo m = true) (h : a < lo) :
    Memory.read m a = erasedWord w := by
  induction m generalizing lo with
  | nil => rfl
  | cons c rest ih =>
    obtain ⟨k, v⟩ := c
    simp only [Memory.wfAbove, Bool.and_eq_true, decide_eq_true_eq] at hm
    have hne : a ≠ k := by omega
    simp only [Memory.read, hne, if_false]
    exact ih hm.2 (by omega)

/-- A write keeps the canonical form. -/
theorem write_wfAbove {lo a : Nat} (v : BitVec w) {m : Memory w} (hm : Memory.wfAbove lo m = true) (h : lo ≤ a) :
    Memory.wfAbove lo (Memory.write m a v) = true := by
  induction m generalizing lo with
  | nil => by_cases hv : v = erasedWord w <;> simp [Memory.write, Memory.wfAbove, hv, h]
  | cons c rest ih =>
    obtain ⟨k, u⟩ := c
    have hm' := hm
    simp only [Memory.wfAbove, Bool.and_eq_true, decide_eq_true_eq] at hm
    obtain ⟨⟨hk, hu⟩, hr⟩ := hm
    unfold Memory.write
    split
    · split
      · exact hm'
      · rename_i hlt hv
        simp only [Memory.wfAbove, Bool.and_eq_true, decide_eq_true_eq]
        exact ⟨⟨h, hv⟩, ⟨by omega, hu⟩, hr⟩
    · split
      · split
        · exact wfAbove_mono (by omega) hr
        · rename_i _ hak hv
          subst hak
          simp only [Memory.wfAbove, Bool.and_eq_true, decide_eq_true_eq]
          exact ⟨⟨h, hv⟩, hr⟩
      · simp only [Memory.wfAbove, Bool.and_eq_true, decide_eq_true_eq]
        exact ⟨⟨hk, hu⟩, ih hr (by omega)⟩

theorem write_wf {a : Nat} (v : BitVec w) {m : Memory w} (hm : m.wf = true) : (Memory.write m a v).wf = true :=
  write_wfAbove v hm (Nat.zero_le a)

/-- A read after a write, at the same place and at any other. -/
theorem read_write {lo a b : Nat} (v : BitVec w) {m : Memory w} (hm : Memory.wfAbove lo m = true) :
    Memory.read (Memory.write m a v) b = if b = a then v else Memory.read m b := by
  induction m generalizing lo with
  | nil =>
    by_cases hv : v = erasedWord w <;> by_cases hb : b = a <;> simp [Memory.write, Memory.read, hv, hb]
  | cons c rest ih =>
    obtain ⟨k, u⟩ := c
    simp only [Memory.wfAbove, Bool.and_eq_true, decide_eq_true_eq] at hm
    obtain ⟨⟨hk, hu⟩, hr⟩ := hm
    unfold Memory.write
    split
    · rename_i hlt
      split
      · rename_i hv
        by_cases hb : b = a
        · subst hb
          have hne : b ≠ k := by omega
          simp [Memory.read, hne, read_below hr (show b < k + 1 by omega), hv]
        · simp [hb]
      · simp [Memory.read]
    · split
      · rename_i _ hak
        subst hak
        split
        · rename_i hv
          by_cases hb : b = a
          · subst hb
            simp [read_below hr (show b < b + 1 by omega), hv]
          · simp [Memory.read, hb]
        · by_cases hb : b = a <;> simp [Memory.read, hb]
      · rename_i _ hak
        by_cases hbk : b = k
        · subst hbk
          have hne : b ≠ a := fun e => hak e.symm
          simp [Memory.read, hne]
        · simp [Memory.read, hbk, ih hr]

theorem read_write_same {a : Nat} (v : BitVec w) {m : Memory w} (hm : m.wf = true) :
    Memory.read (Memory.write m a v) a = v := by simp [read_write v hm]

theorem read_write_other {a b : Nat} (v : BitVec w) {m : Memory w} (hm : m.wf = true) (h : b ≠ a) :
    Memory.read (Memory.write m a v) b = Memory.read m b := by simp [read_write v hm, h]

theorem writeAll_wf (cells : List (Nat × BitVec w)) {m : Memory w} (hm : m.wf = true) :
    (Memory.writeAll m cells).wf = true := by
  induction cells generalizing m with
  | nil => exact hm
  | cons c rest ih => exact ih (write_wf c.2 hm)

/-- A list of writes leaves every address that is not in it as it was. -/
theorem read_writeAll_other (cells : List (Nat × BitVec w)) {m : Memory w} (hm : m.wf = true) {b : Nat}
    (h : ∀ c ∈ cells, c.1 ≠ b) : Memory.read (Memory.writeAll m cells) b = Memory.read m b := by
  induction cells generalizing m with
  | nil => rfl
  | cons c rest ih =>
    show Memory.read (Memory.writeAll (Memory.write m c.1 c.2) rest) b = _
    rw [ih (write_wf c.2 hm) (fun d hd => h d (List.mem_cons_of_mem _ hd))]
    exact read_write_other c.2 hm (Ne.symm (h c List.mem_cons_self))

theorem write_inRegion {span : Span} {a : Nat} (v : BitVec w) {m : Memory w} (hm : m.inRegion span = true)
    (ha : hasWord span a = true) : (Memory.write m a v).inRegion span = true := by
  induction m with
  | nil => by_cases hv : v = erasedWord w <;> simp [Memory.write, Memory.inRegion, hv, ha]
  | cons c rest ih =>
    obtain ⟨k, u⟩ := c
    simp only [Memory.inRegion, List.all_cons, Bool.and_eq_true] at hm ih
    unfold Memory.write
    split
    · split <;> simp only [Memory.inRegion, List.all_cons, Bool.and_eq_true]
      · exact hm
      · exact ⟨ha, hm⟩
    · split
      · split
        · exact hm.2
        · simp only [Memory.inRegion, List.all_cons, Bool.and_eq_true]
          exact ⟨ha, hm.2⟩
      · simp only [Memory.inRegion, List.all_cons, Bool.and_eq_true]
        exact ⟨hm.1, ih hm.2⟩

theorem writeAll_inRegion {span : Span} (cells : List (Nat × BitVec w)) {m : Memory w} (hm : m.inRegion span = true)
    (hc : ∀ c ∈ cells, hasWord span c.1 = true) : (Memory.writeAll m cells).inRegion span = true := by
  induction cells generalizing m with
  | nil => exact hm
  | cons c rest ih =>
    exact ih (write_inRegion c.2 hm (hc c List.mem_cons_self)) (fun d hd => hc d (List.mem_cons_of_mem _ hd))

end Sys2Proof.Machine
end

