-- ==== Sys2Proof/Laws/Flash.lean ====
section
/-! SUPPORT. What a row read, a cycle and the engine can do to a region. -/

namespace Sys2Proof.Machine

variable {w : Nat}

@[simp] theorem rowRead_length (n : Nat) (v : View) (addr : FlashAddr) (f : Flash w) :
    (rowRead n v addr f).length = n := by simp [rowRead]

/-- A cycle keeps the canonical form. -/
theorem flashCycle_wf (span : Span) (units : Nat) (addr : FlashAddr) (asked : List (BitVec w)) {f : Flash w}
    (h : f.cells.wf = true) : (flashCycle span units addr asked f).cells.wf = true := writeAll_wf _ h

/-- A cycle leaves every word outside the rows it may change as it was. -/
theorem flashCycle_other (span : Span) (units : Nat) (addr : FlashAddr) (asked : List (BitVec w)) {f : Flash w}
    (h : f.cells.wf = true) {b : Nat} (hb : b ∉ cycleAddrs span units addr) :
    (flashCycle span units addr asked f).cells.read b = f.cells.read b := by
  refine read_writeAll_other _ h fun c hc e => hb ?_
  simp only [List.mem_map, List.mem_filter] at hc
  obtain ⟨d, ⟨hd, -⟩, rfl⟩ := hc
  exact e ▸ (List.of_mem_zip (by simpa [List.zipIdx_eq_zip_range'] using hd)).1

/-- Every address a cycle may change that lies in the region is a word of it. -/
theorem cycleAddrs_hasWord {span : Span} {units : Nat} {addr : FlashAddr} (hu : units % 2 = 0) {a : Nat}
    (ha : a ∈ cycleAddrs span units addr) (hs : inSpan span a = true) : hasWord span a = true := by
  have aligned : ∀ row, row ∈ cycleRows span units addr → ∃ q, row = span.base + q * units := by
    intro row hr
    unfold cycleRows at hr
    split at hr
    · rename_i h
      simp only [rowStated, Bool.and_eq_true, decide_eq_true_eq] at h
      obtain ⟨⟨⟨hb, hm⟩, -⟩, -⟩ := h
      refine ⟨(addr.toNat - span.base) / units, ?_⟩
      rw [List.mem_singleton.mp hr, Nat.div_mul_cancel (Nat.dvd_of_mod_eq_zero hm)]
      omega
    · rw [List.mem_eraseDups] at hr
      obtain ⟨b, -, rfl⟩ := List.mem_map.mp hr
      exact ⟨_, rfl⟩
  obtain ⟨row, hr, ha⟩ := List.mem_flatMap.mp ha
  obtain ⟨i, -, rfl⟩ := List.mem_map.mp ha
  obtain ⟨q, rfl⟩ := aligned row hr
  have : q * units % 2 = 0 := by rw [Nat.mul_mod, hu]; simp
  simp only [hasWord, hs, Bool.true_and, decide_eq_true_eq]
  omega

/-- A cycle keeps every listed word a word of the region. -/
theorem flashCycle_inRegion {span : Span} {units : Nat} (hu : units % 2 = 0) (addr : FlashAddr) (asked : List (BitVec w))
    {f : Flash w} (h : f.cells.inRegion span = true) : (flashCycle span units addr asked f).cells.inRegion span = true := by
  refine writeAll_inRegion _ h fun c hc => ?_
  simp only [List.mem_map, List.mem_filter] at hc
  obtain ⟨d, ⟨hd, hs⟩, rfl⟩ := hc
  exact cycleAddrs_hasWord hu (List.of_mem_zip (by simpa [List.zipIdx_eq_zip_range'] using hd)).1 hs

/-- The words of a row of its region are words of the region's array, at `addr + 2·i` (R44, R49). -/
theorem rowStated_word {span : Span} {units : Nat} {addr : FlashAddr} (hu : units % 2 = 0) (h : rowStated span units addr = true)
    {i : Nat} (hi : i < units / 2) : wordStated span addr i = true ∧ wordAddr addr i = addr.toNat + 2 * i := by
  simp only [rowStated, Bool.and_eq_true, decide_eq_true_eq] at h
  obtain ⟨⟨⟨hb, hm⟩, he⟩, hw⟩ := h
  have hlt := addr.isLt
  have hq : wordAddr addr i = addr.toNat + 2 * i := Nat.mod_eq_of_lt (by omega)
  have hd : (addr.toNat - span.base) % 2 = 0 := by
    have := Nat.div_add_mod (addr.toNat - span.base) units
    have h2 := Nat.div_add_mod units 2
    rw [hm, hu, Nat.add_zero] at *
    rw [← this, ← h2, Nat.mul_assoc, Nat.mul_mod_right]
  refine ⟨?_, hq⟩
  simp only [wordStated, beforeWrap, hasWord, inSpan, hq, Bool.and_eq_true, decide_eq_true_eq]
  omega

/-- A read of a row that lies in its region is the row of the array: `addr + 2·i` (R44, R49). -/
theorem rowWord_stated {v : View} {addr : FlashAddr} {i : Nat} (h : wordStated v.span addr i = true) (f : Flash w) :
    rowWord v addr f i = f.cells.read (wordAddr addr i) := if_pos h

/-- A cycle that power loss interrupts is one cycle with a free result. -/
theorem interruptedCycle_cells (span : Span) (units : Nat) (addr : FlashAddr) (f : Flash w) :
    (interruptedCycle span units addr f).cells = (flashCycle span units addr [] { f with script := [] }).cells := rfl

section Engine

variable (c : ModifyCall w) {P : Flash w → Prop} (hd : ∀ g, P g → P g.drawn)
  (hc : ∀ g asked, P g → P (flashCycle c.span c.units c.addr asked g))

include hd in
theorem engineStart_keeps {f : Flash w} (h : P f) : P (engineStart c f).flash := by
  unfold engineStart engineSkip
  split <;> exact hd _ h

include hd hc in
theorem engineErase_keeps {e : EngineState w} (h : P e.flash) : P (engineErase c e).flash := by
  unfold engineErase
  split
  · exact h
  · split
    · unfold engineEraseCycle
      dsimp only
      split <;> exact hd _ (hc _ _ (hd _ h))
    · exact hd _ h

include hd hc in
theorem engineProgram_keeps {e : EngineState w} (h : P e.flash) : P (engineProgram c e).flash := by
  unfold engineProgram
  split
  · exact h
  · split
    · unfold engineWriteCycle
      dsimp only
      split <;> exact hd _ (hc _ _ (hd _ h))
    · exact hd _ h

end Engine

/-- What the engine can do, said once: the region ends as after no cycle, one cycle, or two, and only draw numbers move besides. -/
theorem engineRun_cells (c : ModifyCall w) (f : Flash w) (P : Flash w → Prop) (h0 : P f)
    (hd : ∀ g, P g → P g.drawn) (hc : ∀ g asked, P g → P (flashCycle c.span c.units c.addr asked g)) :
    P (engineRun c f).flash :=
  engineProgram_keeps c hd hc (engineErase_keeps c hd hc (engineStart_keeps c hd h0))

/-- The same of a call that power loss cut short. -/
theorem engineCut_cells (c : ModifyCall w) (cut : CutPoint) (f : Flash w) (P : Flash w → Prop) (h0 : P f)
    (hd : ∀ g, P g → P g.drawn) (hc : ∀ g asked, P g → P (flashCycle c.span c.units c.addr asked g))
    (hi : ∀ g, P g → P (interruptedCycle c.span c.units c.addr g)) : P (engineCut c cut f) := by
  have hs := engineStart_keeps c hd h0
  have he := engineErase_keeps c hd hc hs
  unfold engineCut
  cases cut with
  | beforeErase => exact hs
  | inErase =>
    dsimp only
    split
    · exact hi _ (hd _ hs)
    · exact he
  | beforeWrite => exact he
  | inWrite =>
    dsimp only
    split
    · exact hi _ (hd _ he)
    · exact engineProgram_keeps c hd hc he
  | beforeResponse => exact engineProgram_keeps c hd hc he

/-- A call cut short leaves every word outside the rows a cycle may change as it was, and keeps the canonical form. -/
theorem engineCut_other (c : ModifyCall w) (cut : CutPoint) {f : Flash w} (h : f.cells.wf = true) :
    (engineCut c cut f).cells.wf = true ∧
    ∀ b, b ∉ cycleAddrs c.span c.units c.addr → (engineCut c cut f).cells.read b = f.cells.read b := by
  refine ⟨engineCut_cells c cut f (fun g => g.cells.wf = true) h (fun _ hg => hg) (fun _ _ hg => flashCycle_wf _ _ _ _ hg)
    (fun g hg => flashCycle_wf _ _ _ _ (f := { g with script := [] }) hg), fun b hb => ?_⟩
  refine (engineCut_cells c cut f (fun g => g.cells.wf = true ∧ g.cells.read b = f.cells.read b) ⟨h, rfl⟩ (fun _ hg => hg)
    (fun _ _ hg => ⟨flashCycle_wf _ _ _ _ hg.1, (flashCycle_other _ _ _ _ hg.1 hb).trans hg.2⟩) fun g hg => ?_).2
  exact ⟨flashCycle_wf _ _ _ _ (f := { g with script := [] }) hg.1,
    (flashCycle_other _ _ _ _ (f := { g with script := [] }) hg.1 hb).trans hg.2⟩

end Sys2Proof.Machine
end

