-- ==== Sys2Proof/Laws/Params.lean ====
section
/-! SUPPORT. What the open parameters are, whatever they are: the status masks are distinct single bits, and the address map is R51's. -/

namespace Sys2Proof

theorem statusMask_mem (k : Fin 8) : Config.statusMask k ∈ singleBitMasks := by
  unfold Config.statusMask
  generalize Config.statusBits k = j
  revert j
  decide

theorem statusMask_inj {j k : Fin 8} (h : Config.statusMask j = Config.statusMask k) : j = k := by
  have shifts : ∀ a b : Fin 8, (1 : Byte) <<< a.val = (1 : Byte) <<< b.val → a = b := by decide
  exact Config.statusBits.injective (shifts _ _ h)

theorem blSize_bounds : 128 ≤ Config.blSize ∧ Config.blSize < 65536 := by
  have := Nat.mod_lt Config.blCode (show 0 < 65408 by decide)
  unfold Config.blSize
  omega

theorem blBase_bounds : Config.blBase % 64 = 0 ∧ Config.blBase + Config.blSize ≤ 16777216 := by
  have hs := blSize_bounds
  have := Nat.mod_lt Config.blRow (show 0 < (16777216 - Config.blSize) / 64 + 1 by omega)
  have := Nat.div_mul_le_self (16777216 - Config.blSize) 64
  unfold Config.blBase
  omega

theorem pmUnits_bounds : Config.blBase + Config.blSize ≤ Config.pmUnits ∧ Config.pmUnits ≤ 16777216 := by
  have hb := blBase_bounds
  have := Nat.mod_lt Config.pmBeyond (show 0 < 16777216 - (Config.blBase + Config.blSize) + 1 by omega)
  unfold Config.pmUnits
  omega

theorem params_mapLegal : Config.params.mapLegal = true := by
  have hs := blSize_bounds
  have hb := blBase_bounds
  have hp := pmUnits_bounds
  have size : Config.params.blSize.toNat = Config.blSize := Nat.mod_eq_of_lt (by omega)
  have base : Config.params.blBase.toNat = Config.blBase := Nat.mod_eq_of_lt (by omega)
  have masks : 2 * Config.params.cfgMask.length = Config.params.cfgSpan.units := by simp [Config.params]
  have start : Config.params.pmSpan.base = 0 := rfl
  have units : Config.params.pmSpan.units = Config.pmUnits := rfl
  simp only [Params.mapLegal, Bool.and_eq_true, size, base, masks, start, units, Config.rowUnitsPm]
  exact ⟨⟨⟨⟨⟨rfl, decide_eq_true (by omega)⟩, decide_eq_true hb.1⟩, decide_eq_true (by omega)⟩, decide_eq_true hp.1⟩, by simp⟩

end Sys2Proof
end

