-- ==== Sys2Proof/Laws/PerInstr.lean ====
section
/-! SUPPORT. Family EncodedLength: how many bytes the encoding of a well-formed instruction has. A record and a symbol fit a frame's
payload; a frame has at least its five bytes (R60, R64). -/

namespace Sys2Proof.Laws.EncodedLength

open Sys2Proof Sys2Proof.Machine

set_option Elab.async false

/-- The number of bytes of the encoding, by the layer. -/
def Statement (i : Instr) : Prop :=
  i.wellFormed = true → 1 ≤ (encode i).length ∧ (i.layer ≠ .frame → (encode i).length ≤ 100)

theorem modify_length {mask mtch code tblpag : Byte} {offset : Word16} {data : List Byte}
    (h : modifyWellFormed mask mtch code data = true) : (modifyRecord code tblpag offset data).length = 100 := by
  simp only [modifyWellFormed, Bool.and_eq_true, decide_eq_true_eq] at h
  simp [modifyRecord, bytesOfU16, h.2]

theorem handshake : Statement .handshake := fun _ => by simp [encode]
theorem readRow (t : Byte) (o : Word16) : Statement (.readRow t o) := fun _ => by simp [encode, bytesOfU16]
theorem startApp : Statement .startApp := fun _ => by simp [encode]
theorem erasePm (c t : Byte) (o : Word16) (d : List Byte) : Statement (.erasePm c t o d) := fun h => by
  have := modify_length (tblpag := t) (offset := o) h; simp [encode, this]
theorem erasePmForce (c t : Byte) (o : Word16) (d : List Byte) : Statement (.erasePmForce c t o d) := fun h => by
  have := modify_length (tblpag := t) (offset := o) h; simp [encode, this]
theorem programPm (c t : Byte) (o : Word16) (d : List Byte) : Statement (.programPm c t o d) := fun h => by
  have := modify_length (tblpag := t) (offset := o) h; simp [encode, this]
theorem programPmForce (c t : Byte) (o : Word16) (d : List Byte) : Statement (.programPmForce c t o d) := fun h => by
  have := modify_length (tblpag := t) (offset := o) h; simp [encode, this]
theorem eraseEe (c t : Byte) (o : Word16) (d : List Byte) : Statement (.eraseEe c t o d) := fun h => by
  have := modify_length (tblpag := t) (offset := o) h; simp [encode, this]
theorem eraseEeForce (c t : Byte) (o : Word16) (d : List Byte) : Statement (.eraseEeForce c t o d) := fun h => by
  have := modify_length (tblpag := t) (offset := o) h; simp [encode, this]
theorem programEe (c t : Byte) (o : Word16) (d : List Byte) : Statement (.programEe c t o d) := fun h => by
  have := modify_length (tblpag := t) (offset := o) h; simp [encode, this]
theorem programEeForce (c t : Byte) (o : Word16) (d : List Byte) : Statement (.programEeForce c t o d) := fun h => by
  have := modify_length (tblpag := t) (offset := o) h; simp [encode, this]
theorem noRegion (c t : Byte) (o : Word16) (d : List Byte) : Statement (.noRegion c t o d) := fun h => by
  have := modify_length (tblpag := t) (offset := o) (Bool.and_eq_true _ _ ▸ h).1; simp [encode, this]
theorem handshakeRsp (v : Byte) (g : List Byte) (z : Word16) (b : BitVec 32) : Statement (.handshakeRsp v g z b) := fun h => by
  simp only [Instr.wellFormed, decide_eq_true_eq] at h
  simp [encode, bytesOfU16, bytesOfU32, h]
theorem readRowRsp (ws : List PmWord) : Statement (.readRowRsp ws) := fun h => by
  simp only [Instr.wellFormed, decide_eq_true_eq, Config.rowWordsPm] at h
  simp [encode, bytesOfPmWord, List.length_flatMap, h]
theorem startAppRsp : Statement .startAppRsp := fun _ => by simp [encode]
theorem modifyRsp (c st : Byte) : Statement (.modifyRsp c st) := fun _ => by simp [encode]
theorem frameStart : Statement .frameStart := fun _ => by simp [encode]
theorem escAd : Statement .escAd := fun _ => by simp [encode]
theorem escAe : Statement .escAe := fun _ => by simp [encode]
theorem literal (b : Byte) : Statement (.literal b) := fun _ => by simp [encode]
theorem frame (p : List Byte) : Statement (.frame p) := fun _ => by simp [encode, frameBytes, Instr.layer]

end Sys2Proof.Laws.EncodedLength
end

