-- ==== Sys2Proof/Laws/Receive.lean ====
section
/-! SUPPORT. What the framer and a step can do, said once. -/

namespace Sys2Proof.Machine

/-- Every outcome of a wire symbol's framer effect. -/
theorem decoded_cases {d : Byte} {s t : State} (h : decoded d s = .next t) :
    (s.rxst = .header ∧ t = s) ∨
    (s.rxst = .length ∧ t = lengthByte d s) ∨
    (s.rxst = .data ∧ s.rxcnt.toNat < s.rxbuf.length ∧ dataByte d s = .next t) ∨
    (s.rxst = .crcLsb ∧ t = crcLow d s) ∨
    (s.rxst = .crcMsb ∧ t = crcHigh d s) := by
  unfold decoded at h
  split at h <;> simp_all [eq_comm]
  unfold dataByte at h
  split at h <;> simp_all

/-- Every outcome of a step: nothing, one consumed byte that is no whole symbol, or one symbol run. -/
theorem poll_cases {s t : State} (h : poll s = .next t) :
    (s.run = .app ∧ t = s) ∨
    (s.run = .boot ∧ s.rxs = [] ∧ t = s) ∨
    ∃ r rest, s.run = .boot ∧ s.rxs = r :: rest ∧
      ((decodeRaw s.esc r = .escapePrefix ∧ t = escapeStart { s with rxs := rest }) ∨
       (decodeRaw s.esc r = .illegalFollow ∧ t = escapeFault r { s with rxs := rest }) ∨
       ∃ i, decodeRaw s.esc r = .symbol i ∧ runSymbol i { s with rxs := rest } = .next t) := by
  unfold poll at h
  split at h
  · rename_i hr
    exact .inl ⟨hr, (Host.Outcome.next.inj h).symm⟩
  · rename_i hr
    split at h
    · rename_i hx
      exact .inr (.inl ⟨hr, hx, (Host.Outcome.next.inj h).symm⟩)
    · rename_i r rest hx
      refine .inr (.inr ⟨r, rest, hr, hx, ?_⟩)
      unfold rxStep at h
      split at h
      · rename_i i hi
        exact .inr (.inr ⟨i, hi, h⟩)
      · rename_i hi
        exact .inl ⟨hi, (Host.Outcome.next.inj h).symm⟩
      · rename_i hi
        exact .inr (.inl ⟨hi, (Host.Outcome.next.inj h).symm⟩)

/-- A symbol that answers a next state: the framer's own effect, then DISPATCH where the packet is accepted. -/
theorem runSymbol_cases {i : Instr} {s t : State} (h : runSymbol i s = .next t) :
    ∃ u, exec i s = .next u ∧ ((acceptsPacket i s = false ∧ t = u) ∨ (acceptsPacket i s = true ∧ dispatch u = .next t)) := by
  unfold runSymbol at h
  split at h
  · rename_i u hu
    refine ⟨u, hu, ?_⟩
    split at h
    · rename_i ha
      exact .inr ⟨ha, h⟩
    · rename_i ha
      exact .inl ⟨by simpa using ha, (Host.Outcome.next.inj h).symm⟩
  · exact absurd h (by simp)
  · exact absurd h (by simp)

theorem sendChecked_next {p : List Byte} (s : State) (h1 : 1 ≤ p.length) (h2 : p.length ≤ Config.txMaxlen) :
    sendChecked p s = .next (s.send p) := if_pos ⟨h1, h2⟩

theorem whenConnected_hs {code : Byte} {s : State} {o : Host.Outcome State Fault Refusal} (h : s.hs = true) :
    whenConnected code s o = o := if_pos h

theorem whenConnected_ignored {code : Byte} {s : State} {o : Host.Outcome State Fault Refusal} (h : s.hs = false) :
    whenConnected code s o = .next (s.raise (.ignoredBeforeHandshake code)) := by simp [whenConnected, h]

/-! What a read can do, said once (R44, R136). -/

@[simp] theorem send_pmView (p : List Byte) (s : State) : (s.send p).pmView = s.pmView := (rfl)
@[simp] theorem drawn_pmView (s : State) : ({ s with pm := s.pm.drawn } : State).pmView = s.pmView := rfl

/-- A read moves no word that lies in implemented memory before `offset = 0xFFFF` is passed (R44). -/
theorem rowRead_drawn {w : Nat} {n : Nat} {v : View} {addr : FlashAddr}
    (h : ∀ i, i < n → beforeWrap addr i = true ∧ implemented v.par (wordAddr addr i) = true) (f : Flash w) :
    rowRead n v addr f.drawn = rowRead n v addr f := by
  refine List.map_congr_left fun i hi => ?_
  obtain ⟨hb, hm⟩ := h i (List.mem_range.mp hi)
  simp only [rowWord, hb, hm, drawn_cells, drawn_cycles, Bool.and_true, if_true]

/-- READ_ROW in the Connected mode. -/
theorem execReadRow_connected (tblpag : Byte) (offset : Word16) {s : State} (h : s.hs = true) :
    execReadRow tblpag offset s = .next (({ s with pm := s.pm.drawn }).send
      (readRowPayload (rowRead 32 s.pmView (flashAddr tblpag offset) s.pm))) := whenConnected_hs h

end Sys2Proof.Machine
end

