-- ==== Sys2Proof/Tests/Slice0.lean ====
section
/-! SUPPORT. The model's own tests. Expected results are the spec's: the vectors V1 to V84 of `95_test_vectors.md`, the examples of
the rules, and words written out from `30_encoding.md` and `opcode_table.json`. Then the witnesses: for each statement with
hypotheses, values that meet them together, clause by clause at the ends of their ranges. -/

namespace Sys2Proof.Tests

set_option Elab.async false

open Sys2Proof Sys2Proof.Machine

/-! ## Small states -/

/-- The example values of `95_test_vectors.md` ("not in the source and not decisions"). -/
def exampleParams : Params :=
  { rxMaxlen := 128, escInHeader := true, signature := [0x64, 0x73, 0x50, 0x49, 0x43, 0x33, 0x30, 0x46],
    blSize := 0x0400, blBase := 0x00000100, stEraseDone := 0x01, stErrorErase := 0x02, stProgramDone := 0x04,
    stErrorProgram := 0x08, noRegion := .ignore, eeLayout := (List.range 16).map fun i => (2 * i, 2 * i + 1),
    startChecksValid := false, channelDepth := 4, pmSpan := ⟨0, 0x1000⟩, eeSpan := ⟨0x7FF000, 0x1000⟩,
    cfgSpan := ⟨0xF80000, 14⟩, cfgMask := List.replicate 7 0xC003, deviceId := 0x0001D4 }

/-- Reset with the example parameters. -/
def unconnected : State := { State.reset with rxbuf := List.replicate 128 0, par := exampleParams }

/-- The same after a handshake. -/
def connected : State := { unconnected with hs := true }

/-- In the receive state `st`, holding the position and accumulator given, with raw bytes waiting. -/
def receiving (st : RxState) (len cnt : Byte) (crc : Word16) (waiting : List Byte) : State :=
  { unconnected with rxst := st, rxlen := len, rxcnt := cnt, rxcrc := crc, rxs := waiting }

/-- Program memory with these words and the results of its coming cycles. -/
def flash (cells : Memory 24) (script : List (CycleResult 24)) : Flash 24 := ⟨cells, script, 0, 0⟩

/-- The next state of an outcome, if any. -/
def nextOf : Host.Outcome State Fault Refusal → Option State
  | .next t => some t
  | _ => none

/-- The fault of an outcome, if any. -/
def faultOf : Host.Outcome State Fault Refusal → Option Fault
  | .fault r => some r
  | _ => none

/-- The refusal of an outcome, if any. -/
def refusalOf : Host.Outcome State Fault Refusal → Option Refusal
  | .refused r => some r
  | _ => none

/-- 96 zero data bytes. -/
def zeros : List Byte := List.replicate 96 0

/-! ## WellFormed refuses ill-formed terms, one for each check -/

theorem test_wf_erase_pm_code : (Instr.erasePm 0x09 0 0 zeros).wellFormed = false := by decide
theorem test_wf_erase_pm_length : (Instr.erasePm 0x08 0 0 (List.replicate 95 0)).wellFormed = false := by decide
theorem test_wf_erase_pm_force_code : (Instr.erasePmForce 0x08 0 0 zeros).wellFormed = false := by decide
theorem test_wf_program_pm_code : (Instr.programPm 0x0B 0 0 zeros).wellFormed = false := by decide
theorem test_wf_program_pm_force_code : (Instr.programPmForce 0x0A 0 0 zeros).wellFormed = false := by decide
theorem test_wf_erase_ee_code : (Instr.eraseEe 0x18 0 0 zeros).wellFormed = false := by decide
theorem test_wf_erase_ee_force_code : (Instr.eraseEeForce 0x10 0 0 zeros).wellFormed = false := by decide
theorem test_wf_program_ee_code : (Instr.programEe 0x13 0 0 zeros).wellFormed = false := by decide
theorem test_wf_program_ee_force_code : (Instr.programEeForce 0x12 0 0 zeros).wellFormed = false := by decide
theorem test_wf_no_region_code : (Instr.noRegion 0x08 0 0 zeros).wellFormed = false := by decide
theorem test_wf_no_region_fixed : (Instr.noRegion 0x03 0 0 zeros).wellFormed = false := by decide
theorem test_wf_handshake_rsp : (Instr.handshakeRsp 1 [0x64] 0 0).wellFormed = false := by decide
theorem test_wf_read_row_rsp : (Instr.readRowRsp [0x000000]).wellFormed = false := by decide
theorem test_wf_modify_rsp : (Instr.modifyRsp 0x01 0).wellFormed = false := by decide
theorem test_wf_literal_ad : (Instr.literal 0xAD).wellFormed = false := by decide
theorem test_wf_literal_ae : (Instr.literal 0xAE).wellFormed = false := by decide
theorem test_wf_frame_empty : (Instr.frame []).wellFormed = false := by decide
theorem test_wf_frame_long : (Instr.frame (List.replicate 129 0)).wellFormed = false := by decide +kernel

/-! ## Decoding: a word written out from the spec's encoding for every constructor -/

/-- R70: payload `00`. -/
theorem test_decode_handshake : (decodeRequest [0b00000000]).toOption = some .handshake := by decide
/-- R72, V29: `01 FF 00 00` is READ_ROW at `0xFF0000`. -/
theorem test_decode_read_row : (decodeRequest [0b00000001, 0xFF, 0x00, 0x00]).toOption = some (.readRow 0xFF 0x0000) := by decide
/-- R77: the offset's low byte stands first. -/
theorem test_decode_read_row_offset : (decodeRequest [0x01, 0x00, 0x40, 0x01]).toOption = some (.readRow 0x00 0x0140) := by decide
/-- R76. -/
theorem test_decode_start_app : (decodeRequest [0b00000011]).toOption = some .startApp := by decide
/-- R74, R78: bit 3 set, bits 1 and 0 clear. -/
theorem test_decode_erase_pm : (decodeRequest (0b00001000 :: 0x00 :: 0x40 :: 0x01 :: zeros)).toOption =
    some (.erasePm 0x08 0x00 0x0140 zeros) := by decide +kernel
theorem test_decode_erase_pm_force : (decodeRequest (0b00001001 :: 0x00 :: 0x40 :: 0x01 :: zeros)).toOption =
    some (.erasePmForce 0x09 0x00 0x0140 zeros) := by decide +kernel
theorem test_decode_program_pm : (decodeRequest (0b00001010 :: 0x00 :: 0x40 :: 0x01 :: zeros)).toOption =
    some (.programPm 0x0A 0x00 0x0140 zeros) := by decide +kernel
theorem test_decode_program_pm_force : (decodeRequest (0b00001011 :: 0x00 :: 0x40 :: 0x01 :: zeros)).toOption =
    some (.programPmForce 0x0B 0x00 0x0140 zeros) := by decide +kernel
/-- R80 (c), V38: both region bits set, program memory wins. -/
theorem test_decode_both_regions : (decodeRequest (0b00011010 :: 0x00 :: 0x40 :: 0x01 :: zeros)).toOption =
    some (.programPm 0x1A 0x00 0x0140 zeros) := by decide +kernel
/-- R78: bit 4 set, bit 3 clear. -/
theorem test_decode_erase_ee : (decodeRequest (0b00010000 :: 0x7F :: 0x00 :: 0xF0 :: zeros)).toOption =
    some (.eraseEe 0x10 0x7F 0xF000 zeros) := by decide +kernel
theorem test_decode_erase_ee_force : (decodeRequest (0b00010001 :: 0x7F :: 0x00 :: 0xF0 :: zeros)).toOption =
    some (.eraseEeForce 0x11 0x7F 0xF000 zeros) := by decide +kernel
theorem test_decode_program_ee : (decodeRequest (0b00010010 :: 0x7F :: 0x00 :: 0xF0 :: zeros)).toOption =
    some (.programEe 0x12 0x7F 0xF000 zeros) := by decide +kernel
theorem test_decode_program_ee_force : (decodeRequest (0b00010011 :: 0x7F :: 0x00 :: 0xF0 :: zeros)).toOption =
    some (.programEeForce 0x13 0x7F 0xF000 zeros) := by decide +kernel
/-- R78, row 6: `0x04`, `0x02` and `0x20` select no region. -/
theorem test_decode_no_region : (decodeRequest (0b00000100 :: 0x00 :: 0x00 :: 0x00 :: zeros)).toOption =
    some (.noRegion 0x04 0x00 0x0000 zeros) := by decide +kernel
/-- A record that ends early is rejected by name. -/
theorem test_decode_truncated : decodeRequest [0x0A] = .error .truncated := rfl
/-- R71 with the example values (V30). -/
theorem test_decode_handshake_rsp : (decodeResponse [0xFF, 0x01, 0x64, 0x73, 0x50, 0x49, 0x43, 0x33, 0x30, 0x46,
    0x00, 0x04, 0x00, 0x01, 0x00, 0x00]).toOption =
    some (.handshakeRsp 0x01 [0x64, 0x73, 0x50, 0x49, 0x43, 0x33, 0x30, 0x46] 0x0400 0x00000100) := by decide
/-- R73, V32: `AE AD 04` is the word `0x04ADAE`. -/
theorem test_decode_read_row_rsp : (decodeResponse (0xFE :: 0xAE :: 0xAD :: 0x04 :: List.replicate 93 0xFF)).toOption =
    some (.readRowRsp (0x04ADAE :: List.replicate 31 0xFFFFFF)) := by decide +kernel
theorem test_decode_start_app_rsp : (decodeResponse [0xFC]).toOption = some .startAppRsp := by decide
/-- R75, V35: `F5 04` answers code `0x0A`. -/
theorem test_decode_modify_rsp : (decodeResponse [0xF5, 0x04]).toOption = some (.modifyRsp 0x0A 0x04) := by decide
theorem test_decode_frame_start : (decodeSymbol [0b10101110]).toOption = some .frameStart := by decide
theorem test_decode_esc_ad : (decodeSymbol [0b10101101, 0b00000000]).toOption = some .escAd := by decide
theorem test_decode_esc_ae : (decodeSymbol [0b10101101, 0b00000001]).toOption = some .escAe := by decide
theorem test_decode_literal : (decodeSymbol [0x55]).toOption = some (.literal 0x55) := by decide
theorem test_decode_illegal_pair : decodeSymbol [0xAD, 0xAE] = .error (.illegalEscape 0xAE) := rfl
/-- R60, V20. -/
theorem test_decode_frame : (decodeFrame [0xAE, 0x01, 0x00, 0x87, 0x0F]).toOption = some (.frame [0x00]) := by decide +kernel
/-- V41: the last bit of the CRC field flipped. -/
theorem test_decode_frame_bad_crc : (decodeFrame [0xAE, 0x01, 0x00, 0x87, 0x0E]).toOption = none := by decide +kernel
/-- The table's own words, numbered as it numbers them. -/
theorem test_table_words : [(8, 0x00), (8, 0x01), (8, 0x03), (8, 0xFC), (8, 0xAE), (16, 0xAD00), (16, 0xAD01)].map
      (fun r => decodeTableWord r.1 r.2) =
    [some .handshake, some (.readRow 0 0), some .startApp, some .startAppRsp, some .frameStart, some .escAd, some .escAe] := by
  decide +kernel
theorem test_table_modify_word : decodeTableWord 8 0x12 = some (.programEe 0x12 0 0 zeros) := by decide +kernel

/-- The request rows of `opcode_table.json` as (mask, match), in priority order, NOREGION left out. -/
def requestRows : List (Byte × Byte) :=
  [(0xFF, 0x00), (0xFF, 0x01), (0xFF, 0x03), (0x0B, 0x08), (0x0B, 0x09), (0x0B, 0x0A), (0x0B, 0x0B), (0x1B, 0x10), (0x1B, 0x11),
   (0x1B, 0x12), (0x1B, 0x13)]

/-- No code byte matches two request rows. -/
theorem test_request_rows_do_not_overlap :
    (List.range 256).all (fun c => decide ((requestRows.countP fun r => codeMatches r.1 r.2 (BitVec.ofNat 8 c)) ≤ 1)) = true := by
  decide +kernel

/-! ## CRC-16 (V1 to V15) -/

theorem test_crc_check_string : crc16 [0x31, 0x32, 0x33, 0x34, 0x35, 0x36, 0x37, 0x38, 0x39] = 0x6F91 := by decide +kernel
theorem test_crc_update_ffff_01 : crcUpdate 0xFFFF 0x01 = 0x1E0E := by decide +kernel
theorem test_crc_update_0000_80 : crcUpdate 0x0000 0x80 = 0x8408 := by decide +kernel
theorem test_crc_ad_ae : crc16 [0xAD, 0xAE] = 0xA34B := by decide +kernel
theorem test_crc_residue : crc16 [0x00, 0x87, 0x0F] = 0x0000 := by decide +kernel

/-! ## The transmit framer (V19 to V29) -/

theorem test_esc_encode : [0xAC, 0xAD, 0xAE, 0xAF, 0x00, 0x01].map escEncode =
    [[0xAC], [0xAD, 0x00], [0xAD, 0x01], [0xAF], [0x00], [0x01]] := by decide
/-- V27: both CRC bytes escaped. -/
theorem test_send_escaped_crc : frameBytes [0xE4] = [0xAE, 0x01, 0xE4, 0xAD, 0x00, 0xAD, 0x01] := by decide +kernel
/-- V22. -/
theorem test_frame_is_sent : (nextOf (exec (.frame [0x03]) unconnected)).map (·.txs) = some [0xAE, 0x01, 0x03, 0x1C, 0x3D] := by
  decide +kernel
theorem test_empty_frame_is_refused : refusalOf (exec (.frame []) unconnected) = some (.sendLength 0) := by decide
/-- V37. -/
theorem test_modify_rsp_is_sent : (nextOf (exec (.modifyRsp 0x0A 0x00) unconnected)).map (·.txs) =
    some [0xAE, 0x02, 0xF5, 0x00, 0x08, 0xF2] := by decide +kernel
theorem test_start_app_rsp_is_sent : (nextOf (exec .startAppRsp unconnected)).map (·.txcrc) = some 0x3264 := by decide +kernel
/-- V30. -/
theorem test_handshake_rsp_is_sent :
    (nextOf (exec (.handshakeRsp 1 exampleParams.signature 0x0400 0x00000100) unconnected)).map (·.txcrc) = some 0xAD6B := by
  decide +kernel
/-- V17. -/
theorem test_read_row_rsp_is_sent :
    (nextOf (exec (.readRowRsp (List.replicate 32 0xFFFFFF)) unconnected)).map (fun t => (t.txcrc, t.txs.length)) =
      some (0xDB01, 101) := by
  set_option maxRecDepth 20000 in decide +kernel

/-! ## The receive framer, one byte at a time (V40 to V57) -/

theorem test_marker : (nextOf (step (receiving .header 0 0 0 [0xAE]))).map (fun t => (t.rxst, t.evlog)) = some (.length, []) := by
  decide
/-- V46, R215. -/
theorem test_marker_resync : (nextOf (step (receiving .data 4 2 0xE960 [0xAE]))).map (fun t => (t.rxst, t.rxcrc, t.evlog)) =
    some (.length, 0xE960, [.resync .data]) := by decide
/-- V43, V43a: 128 is accepted, 129 is not. -/
theorem test_length_128 : (nextOf (step (receiving .length 0 0 0 [0x80]))).map (fun t => (t.rxst, t.rxlen, t.rxcnt, t.rxcrc)) =
    some (.data, 0x80, 0x00, 0xFFFF) := by decide
theorem test_length_129 : (nextOf (step (receiving .length 0 0 0 [0x81]))).map (fun t => (t.rxst, t.rxlen, t.evlog)) =
    some (.header, 0x00, [.lengthTooLong 0x81]) := by decide
/-- V40, third byte. -/
theorem test_data_byte : (nextOf (step (receiving .data 1 0 0xFFFF [0x00]))).map (fun t => (t.rxst, t.rxcnt, t.rxcrc)) =
    some (.crcLsb, 0x01, 0x0F87) := by decide +kernel
/-- V50, last pair: `AD 00` completes an accepted packet `1F D9`, ignored before a handshake. -/
theorem test_esc_ad : (nextOf (step { receiving .crcLsb 2 2 0xADAD [0x00] with esc := true })).map
    (fun t => (t.rxst, t.esc, t.rxcrc)) = some (.crcMsb, false, 0x00AD) := by decide +kernel
/-- R113's example: `01` after `AD` stores `0xAE`. -/
theorem test_esc_ae : (nextOf (step { receiving .data 2 0 0xFFFF [0x01] with esc := true })).map
    (fun t => (t.rxst, t.esc, t.rxbuf.head?)) = some (.data, false, some 0xAE) := by decide +kernel
/-- V45: a marker swallowed by a pending escape. -/
theorem test_escape_error : (nextOf (step { receiving .data 2 1 0x0E8F [0xAE] with esc := true })).map
    (fun t => (t.rxst, t.esc, t.evlog)) = some (.header, false, [.escapeError 0xAE]) := by decide
/-- V40, last byte: DISPATCH runs in the same step. -/
theorem test_handshake_frame_ends : (nextOf (step (receiving .crcMsb 1 1 0x000F [0x0F]))).map
    (fun t => (t.rxst, t.rxcrc, t.hs, t.txs)) = some (.header, 0x0000, true,
      [0xAE, 0x10, 0xFF, 0x01, 0x64, 0x73, 0x50, 0x49, 0x43, 0x33, 0x30, 0x46, 0x00, 0x04, 0x00, 0x01, 0x00, 0x00, 0x6B, 0xAD,
       0x00]) := by decide +kernel
/-- V41. -/
theorem test_crc_mismatch : (nextOf (step (receiving .crcMsb 1 1 0x000F [0x0E]))).map
    (fun t => (t.rxst, t.rxcrc, t.hs, t.evlog)) = some (.header, 0x1189, false, [.crcMismatch 0x1189]) := by decide +kernel
/-- V57. -/
theorem test_after_start_nothing_is_consumed : (nextOf (step { receiving .header 0 0 0 [0xAE] with run := .app })).map (·.rxs) =
    some [0xAE] := by decide
/-- V48, both values of `ESC_IN_HEADER`. -/
theorem test_stray_prefix : (nextOf (step (receiving .header 0 0 0 [0xAD]))).map (·.esc) = some true := by decide
theorem test_stray_prefix_ignored :
    (nextOf (step { receiving .header 0 0 0 [0xAD] with par := { exampleParams with escInHeader := false } })).map (·.esc) =
      some false := by decide
/-- A placed request runs as the next step, gated by `HS` (R131's example). -/
theorem test_placed_read_row_at_reset : (nextOf (step (State.reset.withFetchWord 8 0x01))).map (fun t => (t.hs, t.evlog, t.txs)) =
    some (false, [.ignoredBeforeHandshake 0x01], []) := by decide +kernel
theorem test_placed_esc_ad_at_reset : (nextOf (step (State.reset.withFetchWord 16 0xAD00))).map (fun t => (t.esc, t.rxst)) =
    some (false, .header) := by decide +kernel

/-! ## The commands -/

/-- V39a and R132: a handshake in the Connected mode changes no mode and is answered. -/
theorem test_handshake_again : (nextOf (exec .handshake connected)).map (fun t => (t.hs, t.txs.length)) = some (true, 21) := by
  decide +kernel
/-- V32: two words of the row are not erased. -/
theorem test_read_row : (nextOf (exec (.readRow 0x00 0x0100)
      { connected with pm := flash [(0x100, 0x04ADAE), (0x102, 0x000000)] [] })).map (fun t => (t.txcrc, t.txs.take 10, t.txs.length)) =
    some (0xF077, [0xAE, 0x61, 0xFE, 0xAD, 0x01, 0xAD, 0x00, 0x04, 0x00, 0x00], 103) := by
  set_option maxRecDepth 20000 in decide +kernel
/-- V39. -/
theorem test_read_row_before_handshake : (nextOf (exec (.readRow 0x00 0x0000) unconnected)).map (fun t => (t.txs, t.evlog)) =
    some ([], [.ignoredBeforeHandshake 0x01]) := by decide
/-- R51, R185: the identity word is word 0 of the read at `0xFF0000`. -/
theorem test_read_identity : (nextOf (exec (.readRow 0xFF 0x0000) connected)).map (fun t => t.txs.take 6) =
    some [0xAE, 0x61, 0xFE, 0xD4, 0x01, 0x00] := by decide +kernel
/-- R40, R47: the valid bits of a configuration word that READ_ROW reaches. -/
theorem test_config_word : (configWord 0xC003 0x8FFE 0x000000, configWord 0xC003 0x8FFE 0xFFFFFF) = (0x008002, 0xFFBFFE) := by
  decide
/-- V34. -/
theorem test_start_app : (nextOf (exec .startApp connected)).map (fun t => (t.run, t.txs)) =
    some (.app, [0xAE, 0x01, 0xFC, 0x64, 0x32]) := by decide +kernel
/-- R151's example: an erased row needs no cycle. -/
theorem test_erase_pm_erased_row : (nextOf (exec (.erasePm 0x08 0x00 0x0400 zeros) connected)).map (·.txs) =
    some [0xAE, 0x02, 0xF7, 0x00, 0xB8, 0xC1] := by decide +kernel
/-- P4, frame 2: a row that is not erased. -/
theorem test_erase_pm : (nextOf (exec (.erasePm 0x08 0x00 0x0140 zeros)
      { connected with pm := flash [(0x140, 0x001000)] [.good] })).map (fun t => (t.txs, t.pm.cells, t.pm.script)) =
    some ([0xAE, 0x02, 0xF7, 0x01, 0x31, 0xD0], [], []) := by decide +kernel
/-- P4, frame 4: the erase is forced. -/
theorem test_erase_pm_force : (nextOf (exec (.erasePmForce 0x09 0x00 0x0140 zeros) { connected with pm := flash [] [.good] })).map
    (fun t => (t.txs, t.pm.script)) = some ([0xAE, 0x02, 0xF6, 0x01, 0xE9, 0xC9], []) := by decide +kernel
/-- V35, V66: an erased row and other data, one write. -/
theorem test_program_pm : (nextOf (exec (.programPm 0x0A 0x00 0x0140 (0x00 :: 0x10 :: 0x00 :: List.replicate 93 0xFF))
      { connected with pm := flash [] [.good] })).map (fun t => (t.txs, t.pm.cells)) =
    some ([0xAE, 0x02, 0xF5, 0x04, 0x2C, 0xB4], [(0x140, 0x001000)]) := by decide +kernel
/-- V38, V64: a row equal to the data, code `0x1A`. -/
theorem test_program_pm_equal_row : (nextOf (exec (.programPm 0x1A 0x00 0x0140 (0x00 :: 0x10 :: 0x00 :: List.replicate 93 0xFF))
      { connected with pm := flash [(0x140, 0x001000)] [.good] })).map (fun t => (t.txs, t.pm.script)) =
    some ([0xAE, 0x02, 0xE5, 0x00, 0x99, 0x67], [.good]) := by decide +kernel
/-- P4, frame 5; V72: force erases and writes an equal row. -/
theorem test_program_pm_force : (nextOf (exec (.programPmForce 0x0B 0x00 0x0140 (0x00 :: 0x10 :: 0x00 :: List.replicate 93 0xFF))
      { connected with pm := flash [(0x140, 0x001000)] [.good, .good] })).map (fun t => (t.txs, t.pm.cells, t.pm.script)) =
    some ([0xAE, 0x02, 0xF4, 0x05, 0x7D, 0xBC], [(0x140, 0x001000)], []) := by decide +kernel
/-- V74: the write leaves another word. -/
theorem test_program_pm_force_bad_write :
    (nextOf (exec (.programPmForce 0x0B 0x00 0x0140 (0x00 :: 0x10 :: 0x00 :: List.replicate 93 0xFF))
      { connected with pm := flash [] [.good, .leaves (0x001001 :: List.replicate 31 0xFFFFFF)] })).map
      (fun t => (decide (t.txcrc = crc16 [0xF4, 0x0D]), t.pm.cells)) = some (true, [(0x140, 0x001001)]) := by decide +kernel
/-- R155: the EEPROM row is 16 words; V62's failing erase on it. -/
theorem test_erase_ee_failing : (nextOf (exec (.eraseEe 0x10 0x7F 0xF020 zeros)
      { connected with ee := ⟨[(0x7FF020, 0x1234)], [.leaves (0x1234 :: List.replicate 15 0xFFFF)], 0, 0⟩ })).map
      (fun t => decide (t.txcrc = crc16 [0xEF, 0x03])) = some true := by decide +kernel
theorem test_erase_ee_erased_row : (nextOf (exec (.eraseEe 0x10 0x7F 0xF020 zeros) connected)).map
    (fun t => decide (t.txcrc = crc16 [0xEF, 0x00])) = some true := by decide +kernel
theorem test_erase_ee_force : (nextOf (exec (.eraseEeForce 0x11 0x7F 0xF020 zeros) { connected with ee := ⟨[], [.good], 0, 0⟩ })).map
    (fun t => (decide (t.txcrc = crc16 [0xEE, 0x01]), t.ee.script)) = some (true, []) := by decide +kernel
/-- With the example layout word 0 is data bytes 0 and 1. -/
theorem test_program_ee : (nextOf (exec (.programEe 0x12 0x7F 0xF020 (0x34 :: 0x12 :: List.replicate 94 0xFF))
      { connected with ee := ⟨[], [.good], 0, 0⟩ })).map (fun t => (decide (t.txcrc = crc16 [0xED, 0x04]), t.ee.cells)) =
    some (true, [(0x7FF020, 0x1234)]) := by decide +kernel
theorem test_program_ee_force : (nextOf (exec (.programEeForce 0x13 0x7F 0xF020 (List.replicate 96 0xFF))
      { connected with ee := ⟨[], [.good, .good], 0, 0⟩ })).map (fun t => (decide (t.txcrc = crc16 [0xEC, 0x05]), t.ee.cells, t.ee.script)) =
    some (true, [], []) := by decide +kernel
/-- R159, both policies. -/
theorem test_no_region_ignored : (nextOf (exec (.noRegion 0x04 0 0 zeros) connected)).map (·.txs) = some [] := by decide
theorem test_no_region_answered :
    (nextOf (exec (.noRegion 0x04 0 0 zeros) { connected with par := { exampleParams with noRegion := .respondStatus0 } })).map
      (fun t => decide (t.txcrc = crc16 [0xFB, 0x00])) = some true := by decide +kernel

/-- R260: power lost between the erase and the write of a forced program command leaves the row erased and sends nothing. -/
def programming : State :=
  { receiving .crcMsb 100 100 0x0000 [0x00] with
    hs := true, rxbuf := 0x0B :: 0x00 :: 0x40 :: 0x01 :: List.replicate 124 0, pm := flash [(0x140, 0x001000)] [.good, .good] }
theorem test_power_lost_before_write : (fun t : State => (t.pm.cells, t.hs, t.txs, t.rxbuf.take 2))
    (programming.powerLoss .beforeWrite [] [0x55]) = ([], false, [], [0x55, 0x00]) := by decide +kernel
/-- R49: data-EEPROM rows are multiples of 32 within their region. -/
theorem test_ee_rows_within_region : (rowStated ⟨0x7FF010, 0x100⟩ 32 0x7FF030, rowStated ⟨0x7FF010, 0x100⟩ 32 0x7FF020,
    cycleRows ⟨0x7FF010, 0x100⟩ 32 0x7FF020) = (true, false, [0x7FF010, 0x7FF030]) := by decide +kernel

/-! ## The host peer (V80 to V84) -/

theorem test_patch_vectors : [0x001234, 0x7F1234, 0x001235, 0x812346, 0xFFFFFF].map patchVector =
    [(0x041234, 0x000000), (0x041234, 0x00007F), (0x041234, 0x000000), (0x042346, 0x000001), (0x04FFFE, 0x00007F)] := by decide
theorem test_unpatch_vectors : [0x001234, 0x7F1234, 0x001235, 0x812346, 0xFFFFFF].map (fun v => unpatchVector (patchVector v)) =
    [0x001234, 0x7F1234, 0x001234, 0x012346, 0x7FFFFE] := by decide

/-! ## Witnesses: values that meet the hypotheses of each statement, clause by clause -/

/-- Whether an outcome is a next state with the property. -/
def reaches (o : Host.Outcome State Fault Refusal) (P : State → Bool) : Bool :=
  match o with
  | .next t => P t
  | _ => false

/-- The longest payload, and one byte more. -/
def longest : List Byte := List.replicate 128 0xAD
def tooLong : List Byte := List.replicate 129 0

theorem witness_EscapeCodeIsItsTable :
    ((0xAC : Byte) ≠ 0xAD ∧ (0xAC : Byte) ≠ 0xAE) ∧ ((0xAF : Byte) ≠ 0xAD ∧ (0xAF : Byte) ≠ 0xAE) ∧
    ((0x02 : Byte) ≠ 0x00 ∧ (0x02 : Byte) ≠ 0x01) ∧ ((0xAE : Byte) ≠ 0x00 ∧ (0xAE : Byte) ≠ 0x01) := by decide

theorem witness_SentFrameHasOneMarkerAndPairedPrefixes :
    (1 ≤ [(0xAD : Byte)].length ∧ [(0xAD : Byte)].length ≤ 128 ∧ (frameBytes [0xAD])[2]? = some 0xAD) ∧
    (1 ≤ longest.length ∧ longest.length ≤ 128 ∧ (frameBytes longest)[2]? = some 0xAD) := by decide +kernel

theorem witness_SendAppendsTheWholeFrame :
    (1 ≤ [(0xAD : Byte)].length ∧ [(0xAD : Byte)].length ≤ 128) ∧ (1 ≤ longest.length ∧ longest.length ≤ 128) := by decide +kernel

theorem witness_SendRefusesOtherLengths :
    (([] : List Byte).length = 0 ∨ 128 < ([] : List Byte).length) ∧ (tooLong.length = 0 ∨ 128 < tooLong.length) := by decide +kernel

theorem witness_ResponseRecordsAreSentByTheirLayouts :
    (List.replicate 32 (0x04ADAE : PmWord)).length = 32 ∧ (List.replicate 32 (0x04ADAE : PmWord))[0]? = some 0x04ADAE ∧
    (List.replicate 32 (0x04ADAE : PmWord))[31]? = some 0x04ADAE := by decide

theorem witness_MarkerRestartsFraming :
    (receiving .crcMsb 1 1 0 [0xAE]).run = .boot ∧ (receiving .crcMsb 1 1 0 [0xAE]).esc = false ∧
    (receiving .crcMsb 1 1 0 [0xAE]).rxs = 0xAE :: [] := by decide

theorem witness_DecodedByteInHeaderIsDiscarded :
    ((Instr.literal 0x55).decodedByte = some 0x55 ∧ Instr.escAd.decodedByte = some 0xAD ∧ Instr.escAe.decodedByte = some 0xAE) ∧
    unconnected.rxst = .header := by decide

/-- Length bytes 0, 1, 128, 129, and `0xAD` as a pair. -/
theorem witness_LengthByteIsCheckedThenAccepted :
    ((Instr.literal 0x00).decodedByte = some 0x00 ∧ (receiving .length 0 0 0 []).rxst = .length) ∧
    ((Instr.literal 0x81).decodedByte = some 0x81 ∧ (0x81 : Byte) ≠ 0 ∧ (receiving .length 0 0 0 []).par.rxMaxlen < (0x81 : Byte).toNat) ∧
    (Instr.escAd.decodedByte = some 0xAD ∧ (receiving .length 0 0 0 []).par.rxMaxlen < (0xAD : Byte).toNat) ∧
    ((Instr.literal 0x01).decodedByte = some 0x01 ∧ (0x01 : Byte).toNat ≤ (receiving .length 0 0 0 []).par.rxMaxlen) ∧
    ((Instr.literal 0x80).decodedByte = some 0x80 ∧ (0x80 : Byte).toNat ≤ (receiving .length 0 0 0 []).par.rxMaxlen) := by decide

theorem witness_DataByteIsStoredAndCounted :
    ((Instr.literal 0x55).decodedByte = some 0x55 ∧ (receiving .data 128 0 0 []).rxst = .data ∧
      (receiving .data 128 0 0 []).rxcnt.toNat < (receiving .data 128 0 0 []).rxbuf.length) ∧
    (Instr.escAe.decodedByte = some 0xAE ∧
      (receiving .data 128 127 0 []).rxcnt.toNat < (receiving .data 128 127 0 []).rxbuf.length) := by decide +kernel

theorem witness_CrcLowByteEntersTheAccumulator :
    (Instr.literal 0x87).decodedByte = some 0x87 ∧ (receiving .crcLsb 1 1 0x0F87 []).rxst = .crcLsb := by decide

/-- The last byte of V40's and of V41's frame. -/
theorem witness_CrcHighByteAcceptsOrDrops :
    ((receiving .crcMsb 1 1 0x000F [0x0F]).run = .boot ∧ (receiving .crcMsb 1 1 0x000F [0x0F]).rxst = .crcMsb ∧
      decodeRaw false 0x0F = .symbol (.literal 0x0F) ∧ crcUpdate 0x000F 0x0F = 0) ∧
    (decodeRaw false 0x0E = .symbol (.literal 0x0E) ∧ crcUpdate 0x000F 0x0E ≠ 0) := by decide +kernel

/-- Any state with `ESC` set; the three kinds of follow byte are `00`, `01` and, at the ends of the rest, `02` and `FF`. -/
theorem witness_FollowByteEndsTheEscape :
    ([0x00, 0x01, 0x02, 0xFF].all fun r =>
      let s := { receiving .data 2 1 0 [r] with esc := true }
      decide (s.run = .boot ∧ s.esc = true ∧ s.rxs = r :: [])) = true := by decide

theorem witness_PrefixSetsEscapePending :
    (receiving .header 0 0 0 [0xAD]).run = .boot ∧ (receiving .header 0 0 0 [0xAD]).esc = false ∧
    (receiving .header 0 0 0 [0xAD]).rxs = 0xAD :: [] := by decide

theorem witness_PollConsumesOneByteOrNothing :
    ({ unconnected with run := .app } : State).run = .app ∧ (unconnected.run = .boot ∧ unconnected.rxs = []) ∧
    (receiving .header 0 0 0 [0xFF]).rxs = 0xFF :: [] := by decide

theorem witness_RawByteTestsAreMadeInOrder :
    ({ unconnected with esc := true } : State).esc = true ∧ unconnected.esc = false ∧
    ((0x02 : Byte) ≠ 0x00 ∧ (0x02 : Byte) ≠ 0x01) ∧ ((0xAF : Byte) ≠ 0xAE ∧ (0xAF : Byte) ≠ 0xAD) := by decide

/-- A marker, which accepts nothing; and V40's last byte, which delivers the handshake in the buffer. -/
theorem witness_StepRunsTheDecodedInstruction :
    (decodeRaw false 0xAE = .symbol .frameStart ∧ acceptsPacket .frameStart { receiving .header 0 0 0 [0xAE] with rxs := [] } = false) ∧
    (decodeRaw false 0x0F = .symbol (.literal 0x0F) ∧
      acceptsPacket (.literal 0x0F) { receiving .crcMsb 1 1 0x000F [0x0F] with rxs := [] } = true ∧
      reaches (exec (.literal 0x0F) { receiving .crcMsb 1 1 0x000F [0x0F] with rxs := [] })
        (fun u => decide ((decode .request u.rxbuf).toOption = some .handshake)) = true) := by decide +kernel

theorem witness_HeaderIsLeftOnlyByAMarker :
    (receiving .header 0 0 0 [0xAE]).rxst = .header ∧
    reaches (step (receiving .header 0 0 0 [0xAE])) (fun t => decide (t.rxst ≠ .header)) = true := by decide

/-- A payload of one byte from `HEADER`, and one of 128 bytes from `DATA`. -/
theorem witness_WellFormedFrameIsDelivered :
    (let s := receiving .header 0 0 0 (frameBytes [0x00] ++ [0x55]);
      s.run = .boot ∧ s.esc = false ∧ 1 ≤ [(0x00 : Byte)].length ∧ [(0x00 : Byte)].length ≤ s.par.rxMaxlen ∧
      s.rxbuf.length = s.par.rxMaxlen ∧ s.rxs = frameBytes [0x00] ++ [0x55]) ∧
    (let s := receiving .data 4 2 0 (frameBytes longest);
      s.run = .boot ∧ s.esc = false ∧ 1 ≤ longest.length ∧ longest.length ≤ 128 ∧ longest.length ≤ s.par.rxMaxlen ∧
      s.rxbuf.length = s.par.rxMaxlen ∧ s.rxs = frameBytes longest ++ []) := by
  set_option maxRecDepth 20000 in decide +kernel

theorem witness_FrameAfterStrayPrefixIsLost :
    let s := { receiving .header 0 0 0 (frameBytes [0x00]) with esc := true }
    s.run = .boot ∧ s.esc = true ∧ 1 ≤ [(0x00 : Byte)].length ∧ [(0x00 : Byte)].length ≤ 128 ∧
      s.rxs = frameBytes [0x00] ++ [] := by decide +kernel

/-- The smallest buffer R6 allows. -/
theorem witness_DispatchMakesItsTestsInOrder :
    100 ≤ ({ connected with rxbuf := 0x0A :: List.replicate 99 0 } : State).rxbuf.length := by decide

theorem witness_RequestsAreIgnoredBeforeHandshake :
    Instr.startApp.layer = .request ∧ Instr.startApp ≠ .handshake ∧ unconnected.hs = false ∧
    (Instr.programEeForce 0x13 0 0 zeros).layer = .request := by decide

theorem witness_HandshakeOpensTheGateAndAnswers : unconnected.par.signature.length = 8 := by decide

/-- The first and the last row of the region, first and last word. -/
theorem witness_ReadRowAnswersTheRow :
    connected.hs = true ∧ wordStated connected.par.pmSpan (flashAddr 0x00 0x0000) 0 = true ∧
    wordStated connected.par.pmSpan (flashAddr 0x00 0x0000) 31 = true ∧
    wordStated connected.par.pmSpan (flashAddr 0x00 0x0FC0) 31 = true := by decide

/-- The 96 data bytes' first and last word; the last row of each region. -/
theorem witness_OperandsAreAssembledLowByteFirst :
    (zeros[3 * 0]? = some 0 ∧ zeros[3 * 0 + 1]? = some 0 ∧ zeros[3 * 0 + 2]? = some 0) ∧
    (zeros[3 * 31]? = some 0 ∧ zeros[3 * 31 + 1]? = some 0 ∧ zeros[3 * 31 + 2]? = some 0) ∧
    (rowStated exampleParams.pmSpan 64 0x000000 = true ∧ rowStated exampleParams.pmSpan 64 0x000FC0 = true ∧ 31 < 64 / 2) ∧
    (rowStated exampleParams.eeSpan 32 0x7FF000 = true ∧ rowStated exampleParams.eeSpan 32 0x7FFFE0 = true ∧ 15 < 32 / 2) := by
  decide +kernel

theorem witness_StartAppAcknowledgesThenStops : connected.hs = true ∧ connected.par.startChecksValid = false := by decide

/-- A patched and an erased first jump-table word. -/
theorem witness_StartAppWithFlagCheck :
    (let s := { connected with par := { exampleParams with startChecksValid := true }, pm := flash [(0x100, 0x040200)] [] };
      s.hs = true ∧ s.par.startChecksValid = true ∧ validFlagWord s ≠ 0xFFFFFF) ∧
    (let s := { connected with par := { exampleParams with startChecksValid := true } };
      validFlagWord s = 0xFFFFFF) := by decide +kernel

theorem witness_ProgramMemoryCommandsRunTheEngine : connected.hs = true := by decide

theorem witness_DataEepromCommandsRunTheEngine : ({ connected with ee := ⟨[], [.good, .good], 0, 0⟩ } : State).hs = true := by decide

theorem witness_NoRegionFollowsItsPolicy :
    (connected.hs = true ∧ connected.par.noRegion = .ignore) ∧
    ({ connected with par := { exampleParams with noRegion := .respondStatus0 } } : State).par.noRegion = .respondStatus0 := by decide

theorem witness_HostAcceptsEveryResponse :
    Instr.startApp.layer = .request ∧ expectedResponseLength .startApp ≠ none ∧ connected.hs = true ∧
    connected.par.legal = true ∧ reaches (exec .startApp connected) (fun _ => true) = true := by decide +kernel

/-- A call on the first row of program memory. -/
def rowCall (program force : Bool) (want : List PmWord) : ModifyCall 24 :=
  { view := connected.pmView, addr := 0x000000, program := program, force := force, want := want }

/-- The row's first word, then erased words; the erased row. -/
def rowOf (first : PmWord) : List PmWord := first :: List.replicate 31 0xFFFFFF
def blankPm : List PmWord := List.replicate 32 0xFFFFFF

/-- The premises of the engine's statements on a call and a region. -/
def engineReady (c : ModifyCall 24) (f : Flash 24) : Bool :=
  rowStated c.span c.units c.addr && decide (c.want.length = c.units / 2) && f.cells.wf

theorem witness_EngineSkipsACorrectRow :
    let c := rowCall true false (rowOf 0x001000)
    c.program = true ∧ c.force = false ∧ c.row (flash [(0, 0x001000)] []) = c.want := by decide +kernel

/-- The rows of the eight cases, all on one ready call. -/
theorem witness_EngineTableOnGoodFlash :
    engineReady (rowCall true false (rowOf 0x001000)) (flash [(0, 0x001000)] [.good, .good]) = true ∧
    rowRead 32 connected.pmView 0 (flash [] [.good, .good]) = blankPm ∧
    rowRead 32 connected.pmView 0 (flash [(0, 0x001000)] [.good, .good]) = rowOf 0x001000 ∧
    rowOf 0x001000 ≠ blankPm ∧ rowOf 0x001000 ≠ rowOf 0x002000 := by decide +kernel

theorem witness_EngineTableOnFailingCycle :
    engineReady (rowCall true false (rowOf 0x001000)) (flash [(0, 0x002000)] [.leaves (rowOf 0x003000)]) = true ∧
    (rowOf 0x003000).length = 32 ∧ rowOf 0x003000 ≠ blankPm ∧ rowOf 0x003000 ≠ rowOf 0x001000 ∧
    rowRead 32 connected.pmView 0 (flash [(0, 0x002000)] [.good, .leaves (rowOf 0x003000)]) ≠ blankPm ∧
    rowRead 32 connected.pmView 0 (flash [(0, 0x002000)] [.good, .leaves (rowOf 0x003000)]) ≠ rowOf 0x001000 ∧
    rowRead 32 connected.pmView 0 (flash [] [.leaves (rowOf 0x003000)]) = blankPm ∧
    (rowCall true true (rowOf 0x001000)).force = true := by decide +kernel

theorem witness_ProgrammingTwiceCyclesOnce :
    engineReady (rowCall true false (rowOf 0x001000)) (flash [(0, 0x002000)] [.good, .good]) = true ∧
    (flash [(0, 0x002000)] [.good, .good]).script = .good :: .good :: [] ∧ (rowCall true false (rowOf 0x001000)).program = true ∧
    (rowCall true false (rowOf 0x001000)).force = false := by decide +kernel

/-- The last row of program memory, both commands. -/
theorem witness_ReadAfterProgramReturnsTheData :
    ([true, false].all fun force =>
      let s := { connected with pm := flash [] [.good, .good] }
      let e := engineRun (pmCall s (flashAddr 0x00 0x0FC0) true force zeros) s.pm
      s.hs && s.par.legal && rowStated s.par.pmSpan 64 (flashAddr 0x00 0x0FC0) &&
        decide (e.status &&& s.par.stErrorErase = 0) && decide (e.status &&& s.par.stErrorProgram = 0)) = true ∧
    ((List.range 32).all fun i => beforeWrap (flashAddr 0x00 0x0141) i &&
      implemented connected.par (wordAddr (flashAddr 0x00 0x0141) i)) = true := by decide +kernel

theorem witness_ModifyCommandsLeaveOtherWordsAlone :
    (connected.pm.cells.wf = true ∧ connected.ee.cells.wf = true) ∧
    reaches (exec (.programPm 0x0A 0x00 0x0140 zeros) { connected with pm := flash [] [.good] }) (fun _ => true) = true ∧
    reaches (exec (.programEe 0x12 0x7F 0xF020 zeros) { connected with ee := ⟨[], [.good], 0, 0⟩ }) (fun _ => true) = true ∧
    (0x0142 ∈ cycleAddrs connected.par.pmSpan 64 (flashAddr 0x00 0x0140) ∧ 0x0180 ∉ cycleAddrs connected.par.pmSpan 64 (flashAddr 0x00 0x0140) ∧
      0x013E ∉ cycleAddrs connected.par.pmSpan 64 (flashAddr 0x00 0x0140)) ∧
    (rowStated connected.par.pmSpan 64 0x000140 = true ∧ rowStated connected.par.eeSpan 32 0x7FF020 = true) := by decide +kernel

/-- A state of the invariant in the middle of the longest packet, with a session open and a row written, whose step is a next state. -/
def busy : State :=
  { receiving .data 128 127 0x1234 [0x55] with hs := true, pm := flash [(0x140, 0x001000)] [.good] }

theorem witness_StepKeepsTheInvariant : busy.Inv ∧ busy.par.startChecksValid = false ∧ reaches (step busy) (fun _ => true) = true :=
  ⟨⟨by decide +kernel, by decide +kernel, by decide, by decide, by decide, by decide, by decide +kernel⟩, by decide, by decide +kernel⟩

/-- Power lost in a forced program command and in a forced EEPROM erase; and when no request is pending. -/
theorem witness_ResetKeepsFlashAndClosesTheSession :
    (programming.pm.cells.wf = true ∧ programming.ee.cells.wf = true ∧ programming.hs = true ∧
      programming.pendingRequest = some (.programPmForce 0x0B 0x00 0x0140 zeros)) ∧
    (let s := { programming with rxbuf := 0x11 :: 0x7F :: 0x20 :: 0xF0 :: List.replicate 124 0 };
      s.pendingRequest = some (.eraseEeForce 0x11 0x7F 0xF020 zeros)) ∧
    (unconnected.hs = false ∧ busy.pendingRequest = none) ∧
    (let c := rowCall true true (rowOf 0x001000);
      engineReady c (flash [(0, 0x002000)] [.good]) = true ∧ c.force = true) := by decide +kernel

theorem witness_StepNeverFaults : busy.Inv ∧ busy.par.startChecksValid = false :=
  ⟨witness_StepKeepsTheInvariant.1, witness_StepKeepsTheInvariant.2.1⟩

/-- V40's last byte before a handshake; a step that keeps `HS`. -/
theorem witness_HandshakeFlagIsSetOnceAndKept :
    (busy.hs = true ∧ reaches (step busy) (fun t => t.hs) = true) ∧
    (let s := receiving .crcMsb 1 1 0x000F [0x0F];
      s.hs = false ∧ s.accepting = true ∧ s.code = 0x00 ∧ reaches (step s) (fun t => t.hs) = true) := by decide +kernel

/-- Both mode changes: V40's handshake, and V34's START_APP in the buffer. -/
theorem witness_ModesChangeOnlyByHandshakeAndStart :
    (let s := receiving .crcMsb 1 1 0x000F [0x0F];
      reaches (step s) (fun t => decide (t.mode ≠ s.mode)) = true) ∧
    (let s := { receiving .crcMsb 1 1 0x0000 [0x00] with hs := true, rxbuf := 0x03 :: List.replicate 127 0 };
      s.mode = .connected ∧ reaches (step s) (fun t => decide (t.mode = .started)) = true) := by decide +kernel

theorem witness_NothingHappensWithoutAnAcceptedPacket :
    busy.accepting = false ∧ reaches (step busy) (fun _ => true) = true := by decide +kernel

theorem witness_ResponsesAreAppendedWhole :
    let s := receiving .crcMsb 1 1 0x000F [0x0F]
    s.par.legal = true ∧ reaches (step s) (fun t => decide (t.txs ≠ s.txs)) = true := by decide +kernel

/-- A step that raises no event, and one that raises one. -/
theorem witness_StepRaisesAtMostOneEvent :
    reaches (step busy) (fun t => decide (t.evlog = busy.evlog)) = true ∧
    reaches (step (receiving .length 0 0 0 [0x81])) (fun t => decide (t.evlog.length = 1)) = true := by decide +kernel

theorem witness_StepConsumesAtMostOneByte :
    busy.run = .boot ∧ busy.rxs = 0x55 :: [] ∧ reaches (step busy) (fun t => decide (t.rxs = [])) = true := by decide +kernel

/-- A forced erase runs in the step; a configuration word and the identity word, first and last word of a row. -/
theorem witness_ConfigurationMemoryIsNeverModified :
    reaches (step { receiving .crcMsb 100 100 0x0000 [0x00] with
        hs := true, rxbuf := 0x09 :: 0x00 :: 0x40 :: 0x01 :: List.replicate 124 0, pm := flash [] [.good], cfg := [(0xF80000, 0x1234)] })
      (fun t => decide (t.pm.script = [])) = true ∧
    (beforeWrap (flashAddr 0xF8 0x0000) 6 = true ∧ hasWord connected.par.pmSpan (wordAddr (flashAddr 0xF8 0x0000) 6) = false ∧
      hasWord connected.par.cfgSpan (wordAddr (flashAddr 0xF8 0x0000) 6) = true ∧
      connected.par.cfgMask[(wordAddr (flashAddr 0xF8 0x0000) 6 - connected.par.cfgSpan.base) / 2]? = some 0xC003 ∧
      (0xC003 : Word16).getLsbD 0 = true ∧ (0xC003 : Word16).getLsbD 15 = true) ∧
    (beforeWrap (flashAddr 0xFF 0x0000) 0 = true ∧ hasWord connected.par.pmSpan (wordAddr (flashAddr 0xFF 0x0000) 0) = false ∧
      hasWord connected.par.cfgSpan (wordAddr (flashAddr 0xFF 0x0000) 0) = false ∧
      wordAddr (flashAddr 0xFF 0x0000) 0 = 0xFF0000) := by decide +kernel

/-- Both kinds of event. -/
theorem witness_EventsDropWithoutSideEffect :
    (let s := receiving .data 4 2 0xE960 [0xAE];
      s.run = .boot ∧ s.rxs = 0xAE :: [] ∧ reaches (step s) (fun t => decide (t.evlog = s.evlog ++ [.resync .data])) = true) ∧
    (let s := receiving .length 0 0 0 [0x00];
      reaches (step s) (fun t => decide (t.evlog = s.evlog ++ [.lengthZero])) = true) := by decide

/-- A full channel. -/
theorem witness_ChannelEventsTouchOnlyWaitingBytes :
    (receiving .header 0 0 0 [1, 2, 3, 4]).rxs.length ≤ (receiving .header 0 0 0 [1, 2, 3, 4]).par.channelDepth := by decide

/-- One term of each layer. -/
theorem witness_DecodeInvertsEncode :
    (Instr.eraseEe 0x10 0x7F 0xF000 zeros).wellFormed = true ∧ (Instr.readRowRsp (List.replicate 32 0)).wellFormed = true ∧
    (Instr.literal 0xAC).wellFormed = true ∧ (Instr.frame longest).wellFormed = true := by decide +kernel

theorem witness_EncodeInvertsDecode :
    (Layer.frame ≠ .request ∧ (decode .frame [0xAE, 0x01, 0x00, 0x87, 0x0F]).toOption = some (.frame [0x00])) ∧
    (Layer.response ≠ .request ∧ (decode .response [0xF5, 0x04]).toOption = some (.modifyRsp 0x0A 0x04)) ∧
    (Layer.symbol ≠ .request ∧ (decode .symbol [0xAD, 0x01]).toOption = some .escAe) := by decide +kernel

theorem witness_UnpatchInvertsPatch : (0x7F1234 : PmWord).getLsbD 0 = false ∧ (0x7F1234 : PmWord).getLsbD 23 = false := by decide

end Sys2Proof.Tests
end

section
/-! The invariant of the machine (`00_scope.md` R6, R10, R13, R14, R40, R114, R123): it holds at reset and every step keeps it. -/

namespace Sys2Proof

/-- The four status masks differ (R6, D14). -/
theorem statusMasks_nodup :
    [Config.statusMask 0, Config.statusMask 1, Config.statusMask 2, Config.statusMask 3].Nodup := by
  have distinct : ([0, 1, 2, 3] : List (Fin 8)).Nodup := by decide
  exact distinct.map fun _ _ h => statusMask_inj h

/-- A signature character is ASCII (R6). -/
theorem signature_ascii : Config.params.signature.all (fun b => decide (b.toNat < 128)) = true := by
  simp only [Config.params, List.all_map, List.all_eq_true, Function.comp_apply, decide_eq_true_eq]
  intro k _
  have := (Config.signatureChar k).isLt
  simp only [BitVec.zeroExtend, BitVec.toNat_setWidth]
  omega

/-- The EEPROM layout names data bytes of the wire row (R6). -/
theorem eeLayout_inWireRow : Config.params.eeLayout.all
    (fun ix => decide (ix.1 < Config.rowBytesWire) && decide (ix.2 < Config.rowBytesWire)) = true := by
  simp [Config.params]

/-- The parameters at reset are within the bounds of R6, whatever the open values are. -/
theorem params_legal : Config.params.legal = true := by
  have masks : [Config.params.stEraseDone, Config.params.stErrorErase, Config.params.stProgramDone,
      Config.params.stErrorProgram].all (fun m => singleBitMasks.contains m) = true := by
    simp [Config.params, statusMask_mem]
  have nodup : [Config.params.stEraseDone, Config.params.stErrorErase, Config.params.stProgramDone,
      Config.params.stErrorProgram].Nodup := statusMasks_nodup
  simp only [Params.legal, signature_ascii, masks, nodup, eeLayout_inWireRow, params_mapLegal]
  simp [Config.params]

end Sys2Proof

namespace Sys2Proof.Machine

/-- Settles O44: the open parameters are legal whatever they are, and the memories list nothing. -/
theorem resetMeetsTheInvariant : Obligations.ResetMeetsTheInvariant where
  legal := params_legal
  buffer := List.length_replicate
  position := rfl
  escape := nofun
  pmForm := ⟨rfl, rfl⟩
  eeForm := ⟨rfl, rfl⟩
  cfgForm := ⟨rfl, rfl⟩

/-! ## The receive position, by the sequencer's state -/

theorem positionOk_data {s : State} (h : s.rxst = .data) : s.positionOk = true ↔
    1 ≤ s.rxlen.toNat ∧ s.rxlen.toNat ≤ s.par.rxMaxlen ∧ s.rxcnt.toNat < s.rxlen.toNat := by
  simp [State.positionOk, h, and_assoc]

theorem positionOk_crc {s : State} (h : s.rxst = .crcLsb ∨ s.rxst = .crcMsb) : s.positionOk = true ↔
    1 ≤ s.rxlen.toNat ∧ s.rxlen.toNat ≤ s.par.rxMaxlen ∧ s.rxcnt = s.rxlen := by
  rcases h with h | h <;> simp [State.positionOk, h, and_assoc]

/-! ## What the framer's operations can do -/

/-- A marker goes to `LENGTH` and may record an event (R112). -/
theorem marker_eq (s : State) : ∃ log, marker s = { s with rxst := .length, evlog := log } := by
  unfold marker
  split
  · exact ⟨s.evlog, rfl⟩
  · exact ⟨_, rfl⟩

/-- A length byte is rejected by an event, or is within 1 to `RX_MAXLEN` and opens `DATA` (R117). -/
theorem lengthByte_cases (d : Byte) (s : State) :
    (∃ e, lengthByte d s = s.takeEvent e .header) ∨
    (d ≠ 0 ∧ d.toNat ≤ s.par.rxMaxlen ∧
      lengthByte d s = { s with rxlen := d, rxcnt := 0, rxcrc := crcInit, rxst := .data }) := by
  unfold lengthByte
  split
  · exact .inl ⟨_, rfl⟩
  · rename_i hd
    split
    · exact .inl ⟨_, rfl⟩
    · rename_i hle
      exact .inr ⟨hd, Nat.le_of_not_lt hle, rfl⟩

/-- A payload byte that is stored (R118). -/
theorem dataByte_next {d : Byte} {s t : State} (h : dataByte d s = .next t) :
    t = { s.storeByte s.rxcnt.toNat d with
      rxcrc := crcUpdate s.rxcrc d
      rxcnt := s.rxcnt + 1
      rxst := if s.rxcnt + 1 = s.rxlen then .crcLsb else s.rxst } := by
  unfold dataByte at h
  split at h
  · exact (Host.Outcome.next.inj h).symm
  · cases h

/-- The CRC high byte returns to `HEADER`; the accumulator and the event log may move (R120). -/
theorem crcHigh_eq (d : Byte) (s : State) :
    ∃ log, crcHigh d s = { s with rxcrc := crcUpdate s.rxcrc d, rxst := .header, evlog := log } := by
  unfold crcHigh
  dsimp only
  split
  · exact ⟨s.evlog, rfl⟩
  · exact ⟨_, rfl⟩

/-! ## The framer keeps the invariant -/

theorem marker_keeps_inv {s : State} (h : s.Inv) : (marker s).Inv := by
  obtain ⟨log, hm⟩ := marker_eq s
  rw [hm]
  exact { h with position := rfl, escape := nofun }

theorem lengthByte_keeps_inv (d : Byte) {s : State} (h : s.Inv) (hesc : s.esc = false) : (lengthByte d s).Inv := by
  obtain ⟨e, hl⟩ | ⟨hd, hle, hl⟩ := lengthByte_cases d s
  · rw [hl]
    exact { h with position := rfl, escape := fun he => absurd (hesc.symm.trans he) nofun }
  · rw [hl]
    have pos : 0 < d.toNat := Nat.pos_of_ne_zero fun h0 => hd (BitVec.eq_of_toNat_eq h0)
    exact { h with position := (positionOk_data rfl).2 ⟨pos, hle, pos⟩, escape := nofun }

/-- The count rises by one and stays below the length, or reaches it and leaves `DATA` (R118). -/
theorem dataByte_keeps_inv {d : Byte} {s t : State} (h : s.Inv) (hst : s.rxst = .data) (ht : dataByte d s = .next t) :
    t.Inv := by
  obtain ⟨h1, hmax, hlt⟩ := (positionOk_data hst).1 h.position
  rw [dataByte_next ht, hst]
  have hbuf : (s.rxbuf.set s.rxcnt.toNat d).length = s.par.rxMaxlen := List.length_set.trans h.buffer
  by_cases hlast : s.rxcnt + 1 = s.rxlen
  · rw [if_pos hlast]
    exact { h with
      buffer := hbuf, position := (positionOk_crc (.inl rfl)).2 ⟨h1, hmax, hlast⟩, escape := nofun }
  · rw [if_neg hlast]
    have below : (s.rxcnt + 1).toNat < s.rxlen.toNat := by bv_omega
    exact { h with
      buffer := hbuf, position := (positionOk_data rfl).2 ⟨h1, hmax, below⟩, escape := nofun }

theorem crcLow_keeps_inv (d : Byte) {s : State} (h : s.Inv) (hst : s.rxst = .crcLsb) : (crcLow d s).Inv :=
  { h with
    position := (positionOk_crc (.inr rfl)).2 ((positionOk_crc (.inl hst)).1 h.position)
    escape := nofun }

theorem crcHigh_keeps_inv (d : Byte) {s : State} (h : s.Inv) (hesc : s.esc = false) : (crcHigh d s).Inv := by
  obtain ⟨log, hc⟩ := crcHigh_eq d s
  rw [hc]
  exact { h with position := rfl, escape := fun he => absurd (hesc.symm.trans he) nofun }

/-- A decoded byte, which always comes with no escape pending. -/
theorem decoded_keeps_inv {d : Byte} {s t : State} (h : s.Inv) (hesc : s.esc = false) (ht : decoded d s = .next t) :
    t.Inv := by
  obtain ⟨-, rfl⟩ | ⟨-, rfl⟩ | ⟨hst, -, hd⟩ | ⟨hst, rfl⟩ | ⟨-, rfl⟩ := decoded_cases ht
  · exact h
  · exact lengthByte_keeps_inv d h hesc
  · exact dataByte_keeps_inv h hst hd
  · exact crcLow_keeps_inv d h hst
  · exact crcHigh_keeps_inv d h hesc

/-- The wire symbols a raw byte completes: a pair with an escape pending, the marker or a literal without (R111). -/
theorem decodeRaw_symbol_cases {esc : Bool} {r : Byte} {i : Instr} (h : decodeRaw esc r = .symbol i) :
    (esc = true ∧ (i = .escAd ∨ i = .escAe)) ∨ (esc = false ∧ (i = .frameStart ∨ i = .literal r)) := by
  unfold decodeRaw at h
  split at h
  · rename_i he
    refine .inl ⟨he, ?_⟩
    split at h
    · exact .inl (RawByte.symbol.inj h).symm
    · split at h
      · exact .inr (RawByte.symbol.inj h).symm
      · cases h
  · rename_i he
    refine .inr ⟨Bool.eq_false_of_not_eq_true he, ?_⟩
    split at h
    · exact .inl (RawByte.symbol.inj h).symm
    · split at h
      · cases h
      · exact .inr (RawByte.symbol.inj h).symm

/-- The framer's effect of the wire symbol that a raw byte completes. -/
theorem exec_symbol_keeps_inv {r : Byte} {i : Instr} {s t : State} (h : s.Inv) (hi : decodeRaw s.esc r = .symbol i)
    (ht : exec i s = .next t) : t.Inv := by
  have ended : ({ s with esc := false } : State).Inv := { h with escape := nofun }
  obtain ⟨-, rfl | rfl⟩ | ⟨hesc, rfl | rfl⟩ := decodeRaw_symbol_cases hi
  · exact decoded_keeps_inv ended rfl ht
  · exact decoded_keeps_inv ended rfl ht
  · exact Host.Outcome.next.inj ht ▸ marker_keeps_inv h
  · exact decoded_keeps_inv h hesc ht

theorem escapeStart_keeps_inv {s : State} (h : s.Inv) : (escapeStart s).Inv :=
  { h with escape := fun he hst => by simpa [escapeFlagAfterPrefix, show s.rxst = .header from hst] using he }

theorem escapeFault_keeps_inv (r : Byte) {s : State} (h : s.Inv) : (escapeFault r s).Inv :=
  { h with position := rfl, escape := nofun }

/-! ## What a request can do -/

theorem decodeModify_layer (code tblpag : Byte) (offset : Word16) (data : List Byte) :
    (decodeModify code tblpag offset data).layer = .request := by
  unfold decodeModify
  split
  · split <;> rfl
  · split
    · split <;> rfl
    · rfl

/-- The dispatcher's decoder answers requests only (R78). -/
theorem decodeRequest_layer {p : List Byte} {i : Instr} (h : decodeRequest p = .ok i) : i.layer = .request := by
  unfold decodeRequest at h
  split at h
  · cases h
  · split at h
    · cases h; rfl
    · split at h
      · split at h <;> cases h
        rfl
      · split at h
        · cases h; rfl
        · split at h
          · split at h <;> cases h
            exact decodeModify_layer ..
          · cases h

/-- What running a request leaves as it was, and how it may leave the two regions it can reach (R130 to R159). -/
structure RequestEffect (s t : State) : Prop where
  par : t.par = s.par
  cfg : t.cfg = s.cfg
  rxst : t.rxst = s.rxst
  esc : t.esc = s.esc
  rxlen : t.rxlen = s.rxlen
  rxcnt : t.rxcnt = s.rxcnt
  rxbuf : t.rxbuf = s.rxbuf
  rxcrc : t.rxcrc = s.rxcrc
  rxs : t.rxs = s.rxs
  /-- program memory is untouched, read, or after one engine call -/
  pm : t.pm = s.pm ∨ t.pm = s.pm.drawn ∨
    ∃ addr program force data, t.pm = (engineRun (pmCall s addr program force data) s.pm).flash
  /-- data EEPROM is untouched, or after one engine call -/
  ee : t.ee = s.ee ∨ ∃ addr program force data, t.ee = (engineRun (eeCall s addr program force data) s.ee).flash

theorem RequestEffect.refl (s : State) : RequestEffect s s :=
  ⟨rfl, rfl, rfl, rfl, rfl, rfl, rfl, rfl, rfl, .inl rfl, .inl rfl⟩

/-- The response that follows adds nothing to what a request may do. -/
theorem RequestEffect.send {s t : State} (h : RequestEffect s t) (p : List Byte) : RequestEffect s (t.send p) :=
  ⟨h.par, h.cfg, h.rxst, h.esc, h.rxlen, h.rxcnt, h.rxbuf, h.rxcrc, h.rxs, h.pm, h.ee⟩

/-- A request may write `HS` and `RUN` and record an event. -/
theorem RequestEffect.session {s t : State} (h : RequestEffect s t) (hs : Bool) (run : RunMode) (log : List Event) :
    RequestEffect s { t with hs := hs, run := run, evlog := log } :=
  ⟨h.par, h.cfg, h.rxst, h.esc, h.rxlen, h.rxcnt, h.rxbuf, h.rxcrc, h.rxs, h.pm, h.ee⟩

theorem drawn_requestEffect (s : State) : RequestEffect s { s with pm := s.pm.drawn } :=
  { RequestEffect.refl s with pm := .inr (.inl rfl) }

theorem modifyPm_requestEffect (code : Byte) (addr : FlashAddr) (program force : Bool) (data : List Byte) (s : State) :
    RequestEffect s (modifyPm code addr program force data s) :=
  have called : RequestEffect s { s with pm := (engineRun (pmCall s addr program force data) s.pm).flash } :=
    { RequestEffect.refl s with pm := .inr (.inr ⟨addr, program, force, data, rfl⟩) }
  called.send _

theorem modifyEe_requestEffect (code : Byte) (addr : FlashAddr) (program force : Bool) (data : List Byte) (s : State) :
    RequestEffect s (modifyEe code addr program force data s) :=
  have called : RequestEffect s { s with ee := (engineRun (eeCall s addr program force data) s.ee).flash } :=
    { RequestEffect.refl s with ee := .inr ⟨addr, program, force, data, rfl⟩ }
  called.send _

theorem flagTested_requestEffect (s : State) : RequestEffect s (flagTested s) := by
  unfold flagTested
  split
  · exact drawn_requestEffect s
  · exact RequestEffect.refl s

/-- The gate answers the event alone, or what stands behind it (R131). -/
theorem whenConnected_cases {code : Byte} {s t : State} {o : Host.Outcome State Fault Refusal}
    (h : whenConnected code s o = .next t) :
    (s.hs = false ∧ t = s.raise (.ignoredBeforeHandshake code)) ∨ (s.hs = true ∧ o = .next t) := by
  cases hs : s.hs with
  | false => exact .inl ⟨rfl, (Host.Outcome.next.inj ((whenConnected_ignored hs).symm.trans h)).symm⟩
  | true => exact .inr ⟨rfl, (whenConnected_hs hs).symm.trans h⟩

theorem whenConnected_requestEffect {code : Byte} {s t : State} {o : Host.Outcome State Fault Refusal}
    (ho : ∀ u, o = .next u → RequestEffect s u) (h : whenConnected code s o = .next t) : RequestEffect s t := by
  obtain ⟨-, rfl⟩ | ⟨-, ht⟩ := whenConnected_cases h
  · exact (RequestEffect.refl s).session s.hs s.run _
  · exact ho t ht

theorem whenConnected_next_requestEffect {code : Byte} {s t u : State} (hu : RequestEffect s u)
    (h : whenConnected code s (.next u) = .next t) : RequestEffect s t :=
  whenConnected_requestEffect (fun _ he => Host.Outcome.next.inj he ▸ hu) h

theorem execHandshake_requestEffect {s t : State} (h : execHandshake s = .next t) : RequestEffect s t := by
  rw [← Host.Outcome.next.inj h]
  exact ((RequestEffect.refl s).session true s.run s.evlog).send _

theorem execStartApp_requestEffect {s t : State} (h : execStartApp s = .next t) : RequestEffect s t := by
  refine whenConnected_requestEffect (fun u hu => ?_) h
  split at hu
  · cases hu
  · rw [← Host.Outcome.next.inj hu]
    exact ((flagTested_requestEffect s).send [0xFC]).session _ .app _

theorem execNoRegion_requestEffect (code tblpag : Byte) (offset : Word16) (data : List Byte) {s t : State}
    (h : execNoRegion code tblpag offset data s = .next t) : RequestEffect s t := by
  refine whenConnected_next_requestEffect ?_ h
  split
  · exact RequestEffect.refl s
  · exact (RequestEffect.refl s).send _

/-- Every request, by its command. -/
theorem exec_requestEffect {i : Instr} {s t : State} (hi : i.layer = .request) (h : exec i s = .next t) :
    RequestEffect s t := by
  cases i with
  | handshake => exact execHandshake_requestEffect h
  | readRow => exact whenConnected_next_requestEffect ((drawn_requestEffect s).send _) h
  | startApp => exact execStartApp_requestEffect h
  | erasePm | erasePmForce | programPm | programPmForce =>
    exact whenConnected_next_requestEffect (modifyPm_requestEffect ..) h
  | eraseEe | eraseEeForce | programEe | programEeForce =>
    exact whenConnected_next_requestEffect (modifyEe_requestEffect ..) h
  | noRegion code tblpag offset data => exact execNoRegion_requestEffect code tblpag offset data h
  | handshakeRsp | readRowRsp | startAppRsp | modifyRsp | frameStart | escAd | escAe | literal | frame => cases hi

/-! ## A request keeps the invariant -/

/-- An engine call keeps the canonical form and the region's word addresses (R40). -/
theorem engineRun_keeps_form {w : Nat} (c : ModifyCall w) (hu : c.units % 2 = 0) {f : Flash w}
    (h : f.cells.wf = true ∧ f.cells.inRegion c.span = true) :
    (engineRun c f).flash.cells.wf = true ∧ (engineRun c f).flash.cells.inRegion c.span = true :=
  engineRun_cells c f (fun g => g.cells.wf = true ∧ g.cells.inRegion c.span = true) h (fun _ hg => hg)
    fun _ asked hg => ⟨flashCycle_wf _ _ _ asked hg.1, flashCycle_inRegion hu _ asked hg.2⟩

theorem RequestEffect.keeps_pmForm {s t : State} (e : RequestEffect s t) (h : s.Inv) :
    t.pm.cells.wf = true ∧ t.pm.cells.inRegion t.par.pmSpan = true := by
  rw [e.par]
  obtain hp | hp | ⟨addr, program, force, data, hp⟩ := e.pm <;> rw [hp]
  · exact h.pmForm
  · exact h.pmForm
  · exact engineRun_keeps_form (pmCall s addr program force data) (show s.pmView.units % 2 = 0 by simp) h.pmForm

theorem RequestEffect.keeps_eeForm {s t : State} (e : RequestEffect s t) (h : s.Inv) :
    t.ee.cells.wf = true ∧ t.ee.cells.inRegion t.par.eeSpan = true := by
  rw [e.par]
  obtain hp | ⟨addr, program, force, data, hp⟩ := e.ee <;> rw [hp]
  · exact h.eeForm
  · exact engineRun_keeps_form (eeCall s addr program force data) (show s.eeView.units % 2 = 0 by simp) h.eeForm

theorem RequestEffect.keeps_inv {s t : State} (e : RequestEffect s t) (h : s.Inv) : t.Inv where
  legal := e.par ▸ h.legal
  buffer := by rw [e.rxbuf, e.par, h.buffer]
  position := by simpa only [State.positionOk, e.rxst, e.rxlen, e.rxcnt, e.par] using h.position
  escape := by simpa only [e.esc, e.rxst, e.par] using h.escape
  pmForm := e.keeps_pmForm h
  eeForm := e.keeps_eeForm h
  cfgForm := by simpa only [e.cfg, e.par] using h.cfgForm

/-- DISPATCH that answers a next state has run a request (R130). -/
theorem dispatch_next {s t : State} (h : dispatch s = .next t) :
    ∃ i, decodeRequest s.rxbuf = .ok i ∧ exec i s = .next t := by
  unfold dispatch at h
  split at h
  · exact ⟨_, ‹_›, h⟩
  · cases h

theorem dispatch_keeps_inv {s t : State} (h : s.Inv) (ht : dispatch s = .next t) : t.Inv := by
  obtain ⟨i, hi, he⟩ := dispatch_next ht
  exact (exec_requestEffect (decodeRequest_layer hi) he).keeps_inv h

/-! ## The step -/

theorem runSymbol_keeps_inv {r : Byte} {i : Instr} {s t : State} (h : s.Inv) (hi : decodeRaw s.esc r = .symbol i)
    (ht : runSymbol i s = .next t) : t.Inv := by
  obtain ⟨u, hu, ⟨-, rfl⟩ | ⟨-, hd⟩⟩ := runSymbol_cases ht
  · exact exec_symbol_keeps_inv h hi hu
  · exact dispatch_keeps_inv (exec_symbol_keeps_inv h hi hu) hd

/-- Settles O45, by what a step can do: nothing, half a pair, an illegal pair, or a wire symbol and the request it delivers. -/
theorem stepKeepsTheInvariant : Obligations.StepKeepsTheInvariant := by
  intro s t h ht
  obtain ⟨-, rfl⟩ | ⟨-, -, rfl⟩ | ⟨r, rest, -, -, hr⟩ := poll_cases ht
  · exact h
  · exact h
  · have taken : ({ s with rxs := rest } : State).Inv := { h with }
    obtain ⟨-, rfl⟩ | ⟨-, rfl⟩ | ⟨i, hi, hx⟩ := hr
    · exact escapeStart_keeps_inv taken
    · exact escapeFault_keeps_inv r taken
    · exact runSymbol_keeps_inv taken hi hx

end Sys2Proof.Machine
end

section
/-! The session state: `HS` at reset and over a step (`10_state.md` R18, R28). A step is the framer's own effect on the receive side,
and where it accepts a packet one request after it. -/

namespace Sys2Proof.Machine

/-- Settles O42: the reset state, field by field; the mode follows from `RUN` and `HS` (R225). -/
theorem resetLeavesTheBlockUnconnected : Obligations.ResetLeavesTheBlockUnconnected :=
  ⟨rfl, rfl, rfl, rfl, rfl, rfl⟩

/-! ## What the framer leaves as it was -/

/-- The receive framer touches neither the session nor the transmit side nor flash (R112 to R120), and the packet buffer only in
`DATA` (R118). -/
structure FramerEffect (s t : State) : Prop where
  hs : t.hs = s.hs
  run : t.run = s.run
  txcrc : t.txcrc = s.txcrc
  txs : t.txs = s.txs
  pm : t.pm = s.pm
  ee : t.ee = s.ee
  cfg : t.cfg = s.cfg
  par : t.par = s.par
  rxbuf : s.rxst ≠ .data → t.rxbuf = s.rxbuf

theorem FramerEffect.refl (s : State) : FramerEffect s s :=
  ⟨rfl, rfl, rfl, rfl, rfl, rfl, rfl, rfl, fun _ => rfl⟩

/-- Writing the receive registers, the event log or the waiting bytes is within the framer's effect. -/
theorem FramerEffect.receive {s t : State} (h : FramerEffect s t) (rxst : RxState) (esc : Bool) (rxlen rxcnt : Byte)
    (rxcrc : Word16) (evlog : List Event) (rxs : List Byte) :
    FramerEffect s { t with
      rxst := rxst, esc := esc, rxlen := rxlen, rxcnt := rxcnt, rxcrc := rxcrc, evlog := evlog, rxs := rxs } :=
  { h with }

theorem marker_framerEffect (s : State) : FramerEffect s (marker s) := by
  obtain ⟨log, hm⟩ := marker_eq s
  rw [hm]
  exact (FramerEffect.refl s).receive ..

theorem lengthByte_framerEffect (d : Byte) (s : State) : FramerEffect s (lengthByte d s) := by
  obtain ⟨e, hl⟩ | ⟨-, -, hl⟩ := lengthByte_cases d s <;> rw [hl]
  · exact (FramerEffect.refl s).receive ..
  · exact (FramerEffect.refl s).receive ..

theorem crcHigh_framerEffect (d : Byte) (s : State) : FramerEffect s (crcHigh d s) := by
  obtain ⟨log, hc⟩ := crcHigh_eq d s
  rw [hc]
  exact (FramerEffect.refl s).receive ..

theorem dataByte_framerEffect {d : Byte} {s t : State} (hst : s.rxst = .data) (h : dataByte d s = .next t) :
    FramerEffect s t := by
  rw [dataByte_next h]
  exact ⟨rfl, rfl, rfl, rfl, rfl, rfl, rfl, rfl, fun hne => absurd hst hne⟩

theorem decoded_framerEffect {d : Byte} {s t : State} (h : decoded d s = .next t) : FramerEffect s t := by
  obtain ⟨-, rfl⟩ | ⟨-, rfl⟩ | ⟨hst, -, hd⟩ | ⟨-, rfl⟩ | ⟨-, rfl⟩ := decoded_cases h
  · exact FramerEffect.refl _
  · exact lengthByte_framerEffect d s
  · exact dataByte_framerEffect hst hd
  · exact (FramerEffect.refl s).receive ..
  · exact crcHigh_framerEffect d s

/-- The wire symbol that a raw byte completes, before any request it delivers. -/
theorem exec_symbol_framerEffect {esc : Bool} {r : Byte} {i : Instr} {s t : State} (hi : decodeRaw esc r = .symbol i)
    (h : exec i s = .next t) : FramerEffect s t := by
  obtain ⟨-, rfl | rfl⟩ | ⟨-, rfl | rfl⟩ := decodeRaw_symbol_cases hi
  · exact { decoded_framerEffect (show decoded _ { s with esc := false } = .next t from h) with }
  · exact { decoded_framerEffect (show decoded _ { s with esc := false } = .next t from h) with }
  · exact Host.Outcome.next.inj h ▸ marker_framerEffect s
  · exact decoded_framerEffect h

/-! ## The step, by whether it accepts a packet -/

/-- A packet is accepted in `CRC_MSB` only (R120). -/
theorem rxst_of_acceptsPacket {i : Instr} {s : State} (h : acceptsPacket i s = true) : s.rxst = .crcMsb := by
  unfold acceptsPacket at h
  split at h
  · simp only [Bool.and_eq_true, decide_eq_true_eq] at h
    exact h.1
  · cases h

theorem accepting_of_app {s : State} (hrun : s.run = .app) : s.accepting = false := by
  simp [State.accepting, hrun]

theorem accepting_of_idle {s : State} (hrun : s.run = .boot) (hrxs : s.rxs = []) : s.accepting = false := by
  simp [State.accepting, hrun, hrxs]

section
variable {s : State} {r : Byte} {rest : List Byte} (hrun : s.run = .boot) (hrxs : s.rxs = r :: rest)
include hrun hrxs

theorem accepting_of_symbol {i : Instr} (hi : decodeRaw s.esc r = .symbol i) : s.accepting = acceptsPacket i s := by
  simp [State.accepting, hrun, hrxs, hi]

theorem accepting_of_escapePrefix (hr : decodeRaw s.esc r = .escapePrefix) : s.accepting = false := by
  simp [State.accepting, hrun, hrxs, hr]

theorem accepting_of_illegalFollow (hr : decodeRaw s.esc r = .illegalFollow) : s.accepting = false := by
  simp [State.accepting, hrun, hrxs, hr]

end

/-- A step is the framer's effect alone, or, where it accepts a packet, that effect and then the request that the packet buffer
already held (R120, R130). -/
theorem step_cases_accepting {s t : State} (h : step s = .next t) :
    (s.accepting = false ∧ FramerEffect s t) ∨
    (s.accepting = true ∧ ∃ u i, FramerEffect s u ∧ decodeRequest s.rxbuf = .ok i ∧ exec i u = .next t) := by
  obtain ⟨hrun, rfl⟩ | ⟨hrun, hrxs, rfl⟩ | ⟨r, rest, hrun, hrxs, hr⟩ := poll_cases h
  · exact .inl ⟨accepting_of_app hrun, .refl _⟩
  · exact .inl ⟨accepting_of_idle hrun hrxs, .refl _⟩
  · obtain ⟨hd, rfl⟩ | ⟨hd, rfl⟩ | ⟨i, hi, hx⟩ := hr
    · exact .inl ⟨accepting_of_escapePrefix hrun hrxs hd, (FramerEffect.refl s).receive ..⟩
    · exact .inl ⟨accepting_of_illegalFollow hrun hrxs hd, (FramerEffect.refl s).receive ..⟩
    · rw [accepting_of_symbol hrun hrxs hi]
      obtain ⟨u, hu, hrest⟩ := runSymbol_cases hx
      have effect : FramerEffect s u := { exec_symbol_framerEffect hi hu with }
      obtain ⟨ha, rfl⟩ | ⟨ha, hdisp⟩ := hrest
      · exact .inl ⟨ha, effect⟩
      · obtain ⟨request, hreq, hexec⟩ := dispatch_next hdisp
        have notData : s.rxst ≠ .data := fun hst => nomatch (rxst_of_acceptsPacket ha).symm.trans hst
        rw [effect.rxbuf notData] at hreq
        exact .inr ⟨ha, u, request, effect, hreq, hexec⟩

/-! ## `HS` over a request -/

/-- Behind the gate `HS` stays as it was when the effect keeps it. -/
theorem whenConnected_keeps_hs {code : Byte} {s t : State} {o : Host.Outcome State Fault Refusal}
    (ho : ∀ u, o = .next u → u.hs = s.hs) (h : whenConnected code s o = .next t) : t.hs = s.hs := by
  obtain ⟨-, rfl⟩ | ⟨-, ht⟩ := whenConnected_cases h
  · exact raise_hs ..
  · exact ho t ht

theorem whenConnected_next_keeps_hs {code : Byte} {s t u : State} (hu : u.hs = s.hs)
    (h : whenConnected code s (.next u) = .next t) : t.hs = s.hs :=
  whenConnected_keeps_hs (fun _ he => Host.Outcome.next.inj he ▸ hu) h

theorem execHandshake_sets_hs {s t : State} (h : execHandshake s = .next t) : t.hs = true := by
  rw [← Host.Outcome.next.inj h]
  exact send_hs ..

theorem execReadRow_keeps_hs {tblpag : Byte} {offset : Word16} {s t : State} (h : execReadRow tblpag offset s = .next t) :
    t.hs = s.hs :=
  whenConnected_next_keeps_hs (send_hs { s with pm := s.pm.drawn } _) h

theorem flagTested_hs (s : State) : (flagTested s).hs = s.hs := by
  unfold flagTested
  split <;> rfl

theorem execStartApp_keeps_hs {s t : State} (h : execStartApp s = .next t) : t.hs = s.hs := by
  refine whenConnected_keeps_hs (fun u hu => ?_) h
  split at hu
  · cases hu
  · rw [← Host.Outcome.next.inj hu]
    exact flagTested_hs s

theorem execNoRegion_keeps_hs (code tblpag : Byte) (offset : Word16) (data : List Byte) {s t : State}
    (h : execNoRegion code tblpag offset data s = .next t) : t.hs = s.hs := by
  refine whenConnected_next_keeps_hs ?_ h
  split
  · rfl
  · exact send_hs ..

theorem modifyPm_hs (code : Byte) (addr : FlashAddr) (program force : Bool) (data : List Byte) (s : State) :
    (modifyPm code addr program force data s).hs = s.hs := send_hs ..

theorem modifyEe_hs (code : Byte) (addr : FlashAddr) (program force : Bool) (data : List Byte) (s : State) :
    (modifyEe code addr program force data s).hs = s.hs := send_hs ..

/-- "never cleared by any command" (R18): HANDSHAKE sets `HS`, every other request keeps it. -/
theorem exec_request_hs {i : Instr} {s t : State} (hi : i.layer = .request) (h : exec i s = .next t) :
    t.hs = (s.hs || decide (i = .handshake)) := by
  cases i with
  | handshake => simpa using execHandshake_sets_hs h
  | readRow => simpa using execReadRow_keeps_hs h
  | startApp => simpa using execStartApp_keeps_hs h
  | erasePm | erasePmForce | programPm | programPmForce => simpa using whenConnected_next_keeps_hs (modifyPm_hs ..) h
  | eraseEe | eraseEeForce | programEe | programEeForce => simpa using whenConnected_next_keeps_hs (modifyEe_hs ..) h
  | noRegion code tblpag offset data => simpa using execNoRegion_keeps_hs code tblpag offset data h
  | handshakeRsp | readRowRsp | startAppRsp | modifyRsp | frameStart | escAd | escAe | literal | frame => cases hi

/-! ## Which packet is a handshake -/

theorem decodeModify_ne_handshake (code tblpag : Byte) (offset : Word16) (data : List Byte) :
    decodeModify code tblpag offset data ≠ .handshake := by
  unfold decodeModify
  split
  · split <;> nofun
  · split
    · split <;> nofun
    · nofun

/-- Only the code byte `0x00` stands for HANDSHAKE (R78). -/
theorem decodeRequest_handshake_iff {p : List Byte} {i : Instr} (h : decodeRequest p = .ok i) :
    i = .handshake ↔ p.getD 0 0 = 0x00 := by
  cases p with
  | nil => cases h
  | cons code body =>
    rw [List.getD_cons_zero]
    unfold decodeRequest at h
    dsimp only at h
    split at h
    · rename_i h0
      exact iff_of_true (Except.ok.inj h).symm h0
    · rename_i h0
      refine iff_of_false ?_ h0
      split at h
      · split at h <;> cases h
        nofun
      · split at h
        · cases h; nofun
        · split at h
          · split at h <;> cases h
            exact decodeModify_ne_handshake _ _ _ _
          · cases h

/-! ## `HS` over a step -/

/-- `HS` after a step: it was set, or the step accepts a packet whose code is `0x00` (R18). -/
theorem step_hs {s t : State} (h : step s = .next t) : t.hs = (s.hs || (s.accepting && decide (s.code = 0x00))) := by
  obtain ⟨ha, effect⟩ | ⟨ha, u, i, effect, hreq, hexec⟩ := step_cases_accepting h
  · simp [ha, effect.hs]
  · have code : i = .handshake ↔ s.code = 0x00 := decodeRequest_handshake_iff hreq
    simp [ha, exec_request_hs (decodeRequest_layer hreq) hexec, effect.hs, code]

/-- Settles O47, by the one equation for `HS` over a step. -/
theorem handshakeFlagIsSetOnceAndKept : Obligations.HandshakeFlagIsSetOnceAndKept := by
  refine ⟨fun s t h hs => ?_, fun s t h hs ht => ?_, fun s t h ha hc => ?_, fun kept s => restart_hs s kept⟩
  · simp [step_hs h, hs]
  · simpa [hs, ht] using step_hs h
  · simp [step_hs h, ha, hc]

end Sys2Proof.Machine
end

section
/-! The address spaces (`20_memory.md` R40 to R51): how the operands of a row are formed, what the serial channel may do to the waiting
bytes, and what a read meets at each kind of address. -/

namespace Sys2Proof.Machine

/-! ## Addresses and words from bytes (R43, R44, R77) -/

/-- The more significant part stands above the other's bits. -/
theorem append_toNat {m n : Nat} (high : BitVec m) (low : BitVec n) :
    (high ++ low).toNat = high.toNat * 2 ^ n + low.toNat := by
  rw [BitVec.toNat_append, ← Nat.shiftLeft_add_eq_or_of_lt low.isLt, Nat.shiftLeft_eq]

theorem flashAddr_toNat (tblpag : Byte) (offset : Word16) :
    (flashAddr tblpag offset).toNat = tblpag.toNat * 65536 + offset.toNat := append_toNat tblpag offset

theorem u16OfBytes_toNat (lo hi : Byte) : (u16OfBytes lo hi).toNat = hi.toNat * 256 + lo.toNat := append_toNat hi lo

theorem pmWordOfBytes_toNat (low high upper : Byte) :
    (pmWordOfBytes low high upper).toNat = upper.toNat * 65536 + high.toNat * 256 + low.toNat := by
  refine (append_toNat (upper ++ high) low).trans ?_
  rw [append_toNat upper high]
  omega

theorem pmWanted_getElem? {data : List Byte} {i : Nat} {low high upper : Byte} (hi : i < 32)
    (hlow : data[3 * i]? = some low) (hhigh : data[3 * i + 1]? = some high) (hupper : data[3 * i + 2]? = some upper) :
    (pmWanted data)[i]? = some (pmWordOfBytes low high upper) := by
  simp [pmWanted, List.getElem?_range hi, List.getD_eq_getElem?_getD, hlow, hhigh, hupper]

/-- A row of a region ends within it (R49). -/
theorem rowStated_end {span : Span} {units : Nat} {addr : FlashAddr} (h : rowStated span units addr = true) :
    addr.toNat + units ≤ span.base + span.units := by
  simp only [rowStated, Bool.and_eq_true, decide_eq_true_eq] at h
  exact h.1.2

/-- Settles O27, part by part: the address, the read request, a word of the data, a row's words. -/
theorem operandsAreAssembledLowByteFirst : Obligations.OperandsAreAssembledLowByteFirst := by
  refine ⟨flashAddr_toNat, fun tblpag lo hi rest => ⟨rfl, u16OfBytes_toNat lo hi⟩,
    fun data i low high upper hi hlow hhigh hupper =>
      ⟨_, pmWanted_getElem? hi hlow hhigh hupper, pmWordOfBytes_toNat low high upper⟩,
    fun span units addr i hunits hrow hi => ?_⟩
  have even : units % 2 = 0 := by omega
  obtain ⟨stated, place⟩ := rowStated_word even hrow hi
  have inside := rowStated_end hrow
  exact ⟨stated, place, by omega⟩

/-! ## The serial channel (R41, R251) -/

/-- Only an arriving or a spurious byte lengthens the queue, and only below its capacity (R251). -/
theorem channelBytes_length_le {depth : Nat} {waiting : List Byte} (e : ChannelEvent) (h : waiting.length ≤ depth) :
    (channelBytes depth waiting e).length ≤ depth := by
  cases e with
  | arrive b =>
    simp only [channelBytes]
    split
    · simpa using ‹waiting.length < depth›
    · exact h
  | drop i => exact (List.length_eraseIdx_le waiting i).trans h
  | corrupt i b => exact List.length_set.trans_le h
  | insert i b =>
    simp only [channelBytes]
    split
    · simp only [List.length_append, List.length_cons, List.length_take, List.length_drop]
      omega
    · exact h

/-- Settles O55: `State.channel` writes `RXS` alone, and each event keeps the bound. -/
theorem channelEventsTouchOnlyWaitingBytes : Obligations.ChannelEventsTouchOnlyWaitingBytes :=
  fun e _ => ⟨rfl, channelBytes_length_le e⟩

/-! ## What a read meets outside program memory's array (R40, R47, R51) -/

theorem inSpan_of_hasWord {span : Span} {a : Nat} (h : hasWord span a = true) : inSpan span a = true :=
  (Bool.and_eq_true_iff.mp h).1

/-- A valid bit of a configuration word is the stored one, at its own place (R47). -/
theorem configWord_getLsbD {mask stored : Word16} {unsaid : PmWord} {j : Nat} (hj : j < 16)
    (hmask : mask.getLsbD j = true) : (configWord mask stored unsaid).getLsbD j = stored.getLsbD j := by
  have hj24 : j < 24 := by omega
  simp [configWord, hmask, hj24]

/-- A configuration word answers with its mask and its stored bits; what the rules leave unsaid is a free value (R47). -/
theorem foreignWord_config {v : View} {a : Nat} {mask : Word16} (hpm : v.region = .pm)
    (hcfg : hasWord v.par.cfgSpan a = true) (hmask : v.par.cfgMask[(a - v.par.cfgSpan.base) / 2]? = some mask)
    (unsaid : PmWord) : foreignWord v unsaid a = some (configWord mask (v.cfg.read a) unsaid) := by
  simp [foreignWord, hpm, hcfg, List.getD_eq_getElem?_getD, hmask]

/-- The identity word, where no configuration word stands (R51). -/
theorem foreignWord_identity {v : View} (hpm : v.region = .pm) (hcfg : hasWord v.par.cfgSpan identityAddr = false)
    (unsaid : PmWord) : foreignWord v unsaid identityAddr = some v.par.deviceId := by
  simp [foreignWord, hpm, hcfg]

/-- Outside the region's array, in implemented memory, a read meets what the rules state there. -/
theorem rowWord_foreign {v : View} {addr : FlashAddr} {i : Nat} {word : PmWord} (f : Flash 24)
    (hwrap : beforeWrap addr i = true) (harray : hasWord v.span (wordAddr addr i) = false)
    (himpl : implemented v.par (wordAddr addr i) = true)
    (hword : foreignWord v (Config.stableWord 24 (f.cycles + v.others) (wordAddr addr i)) (wordAddr addr i) = some word) :
    rowWord v addr f i = word := by
  simp [rowWord, wordStated, hwrap, harray, himpl, hword]

theorem rowRead_getElem?_some {w n : Nat} {v : View} {addr : FlashAddr} {f : Flash w} {i : Nat} {word : BitVec w}
    (h : (rowRead n v addr f)[i]? = some word) : word = rowWord v addr f i := by
  obtain ⟨hi, hword⟩ := List.getElem?_eq_some_iff.mp h
  simpa [rowRead] using hword.symm

/-- What READ_ROW sends in the Connected mode (R73, R136). -/
theorem exec_readRow_answers (tblpag : Byte) (offset : Word16) {s : State} (h : s.hs = true) :
    ∃ t, exec (.readRow tblpag offset) s = .next t ∧
      t.txs = s.txs ++ frameBytes (readRowPayload (rowRead 32 s.pmView (flashAddr tblpag offset) s.pm)) :=
  ⟨_, execReadRow_connected tblpag offset h, send_txs ..⟩

/-- A step keeps configuration memory and the parameters: the framer touches neither, and no request does (R47). -/
theorem step_keeps_cfg_par {s t : State} (h : step s = .next t) : t.cfg = s.cfg ∧ t.par = s.par := by
  obtain ⟨-, framer⟩ | ⟨-, u, i, framer, hreq, hexec⟩ := step_cases_accepting h
  · exact ⟨framer.cfg, framer.par⟩
  · have request := exec_requestEffect (decodeRequest_layer hreq) hexec
    exact ⟨request.cfg.trans framer.cfg, request.par.trans framer.par⟩

/-- Settles O54: the frame of a step, and READ_ROW's words by what stands at their addresses. -/
theorem configurationMemoryIsNeverModified : Obligations.ConfigurationMemoryIsNeverModified := by
  refine ⟨fun s t h => step_keeps_cfg_par h, fun tblpag offset s hs => ?_⟩
  obtain ⟨t, hread, sent⟩ := exec_readRow_answers tblpag offset hs
  refine ⟨t, _, hread, rowRead_length .., sent, fun i word hword hwrap => ?_⟩
  intro a harray
  rw [rowRead_getElem?_some hword]
  refine ⟨fun mask hcfg hmask j hj hbit => ?_, fun hcfg ha => ?_⟩
  · have himpl : implemented s.par a = true := by simp [implemented, inSpan_of_hasWord hcfg]
    rw [rowWord_foreign (v := s.pmView) s.pm hwrap harray himpl (foreignWord_config (v := s.pmView) rfl hcfg hmask _)]
    exact configWord_getLsbD hj hbit
  · have himpl : implemented s.par a = true := by simp [implemented, identityAddr, ha]
    refine rowWord_foreign s.pm hwrap harray himpl ?_
    change foreignWord s.pmView _ a = _
    rw [ha] at hcfg ⊢
    exact foreignWord_identity rfl hcfg _

end Sys2Proof.Machine
end

section
/-! Flash writes and later reads (`20_memory.md` R56): a program that reports no error bit has left the data in the row, and a later
READ_ROW returns it. -/

namespace Sys2Proof.Machine

/-! ## How a program call ends (R162 to R165) -/

section
variable {w : Nat} {c : ModifyCall w} (hrow : rowStated c.span c.units c.addr = true) (hunits : c.units % 2 = 0)
include hrow hunits

/-- A row of its region is read from the array, so a read's draw number does not matter (R167). -/
theorem row_drawn (f : Flash w) : c.row f.drawn = c.row f := by
  refine List.map_congr_left fun i hi => ?_
  have stated := (rowStated_word hunits hrow (List.mem_range.mp hi)).1
  rw [rowWord_stated stated, rowWord_stated stated, drawn_cells]

/-- Step 1 returns only where the row already holds the data (R162). -/
theorem engineStart_row (f : Flash w) :
    (engineStart c f).returned = false ∨ ((engineStart c f).returned = true ∧ c.row (engineStart c f).flash = c.want) := by
  unfold engineStart engineSkip
  split
  · rename_i skip
    simp only [Bool.and_eq_true, rowEquals, decide_eq_true_eq] at skip
    exact .inr ⟨rfl, (row_drawn hrow hunits f).trans skip.2⟩
  · exact .inl rfl

/-- The write cycle of step 3 leaves the data, or its error bit is set (R164). -/
theorem engineWriteCycle_row (e : EngineState w) :
    c.row (engineWriteCycle c e).flash = c.want ∨ ∃ status, (engineWriteCycle c e).status = withErrorProgram c.par status := by
  unfold engineWriteCycle
  dsimp only
  split
  · rename_i verified
    exact .inl ((row_drawn hrow hunits _).trans (of_decide_eq_true verified))
  · exact .inr ⟨_, rfl⟩

/-- Step 3 of a program leaves the data, by its write or because the row stood so, or its error bit is set (R164). -/
theorem engineProgram_row (hprogram : c.program = true) {e : EngineState w} (hgo : e.returned = false) :
    c.row (engineProgram c e).flash = c.want ∨ ∃ status, (engineProgram c e).status = withErrorProgram c.par status := by
  unfold engineProgram
  rw [hgo, if_neg Bool.false_ne_true]
  split
  · exact engineWriteCycle_row hrow hunits _
  · rename_i due
    have stood : c.force = false ∧ c.row e.flash = c.want := by
      simpa [writeDue, hgo, hprogram, rowEquals, row_drawn hrow hunits] using due
    exact .inl ((row_drawn hrow hunits _).trans stood.2)

end

/-- Step 2 goes on, or its error bit is set (R163). -/
theorem engineErase_returned {w : Nat} (c : ModifyCall w) {e : EngineState w} (hgo : e.returned = false) :
    (engineErase c e).returned = false ∨
    ((engineErase c e).returned = true ∧ ∃ status, (engineErase c e).status = withErrorErase c.par status) := by
  unfold engineErase
  rw [hgo, if_neg Bool.false_ne_true]
  split
  · unfold engineEraseCycle
    dsimp only
    split
    · exact .inl rfl
    · exact .inr ⟨rfl, _, rfl⟩
  · exact .inl rfl

theorem engineErase_of_returned {w : Nat} (c : ModifyCall w) {e : EngineState w} (h : e.returned = true) :
    engineErase c e = e := if_pos h

theorem engineProgram_of_returned {w : Nat} (c : ModifyCall w) {e : EngineState w} (h : e.returned = true) :
    engineProgram c e = e := if_pos h

/-- How a program call ends on a row of its region: with the data in the row, or with an error bit (R162 to R165). -/
theorem engineRun_row_or_error {w : Nat} {c : ModifyCall w} (hrow : rowStated c.span c.units c.addr = true)
    (hunits : c.units % 2 = 0) (hprogram : c.program = true) (f : Flash w) :
    c.row (engineRun c f).flash = c.want ∨ (∃ status, (engineRun c f).status = withErrorErase c.par status) ∨
    ∃ status, (engineRun c f).status = withErrorProgram c.par status := by
  unfold engineRun
  obtain started | ⟨skipped, held⟩ := engineStart_row hrow hunits f
  · obtain erased | ⟨failed, error⟩ := engineErase_returned c started
    · exact (engineProgram_row hrow hunits hprogram erased).imp_right .inr
    · rw [engineProgram_of_returned c failed]
      exact .inr (.inl error)
  · rw [engineErase_of_returned c skipped, engineProgram_of_returned c skipped]
    exact .inl held

/-- Each error field of the status byte has a bit (R6, R161). -/
theorem errorMasks_ne_zero {p : Params} (h : p.legal = true) : p.stErrorErase ≠ 0 ∧ p.stErrorProgram ≠ 0 := by
  have single : ∀ m ∈ singleBitMasks, m ≠ 0 := by decide
  simp only [Params.legal, Bool.and_eq_true, List.all_cons, List.contains_iff_mem] at h
  obtain ⟨⟨⟨⟨⟨-, -, erase, -, program, -⟩, -⟩, -⟩, -⟩, -⟩ := h
  exact ⟨single _ erase, single _ program⟩

/-- A status bit that was set shows. -/
theorem or_and_self_ne_zero {m : Byte} (hm : m ≠ 0) (status : Byte) : (status ||| m) &&& m ≠ 0 := by
  have absorb : (status ||| m) &&& m = m := by
    ext j hj
    simp only [BitVec.getElem_and, BitVec.getElem_or]
    cases m[j] <;> simp
  rwa [absorb]

/-- R56 at the engine: no error bit, so the row holds the data. -/
theorem engineRun_row_of_noError {w : Nat} {c : ModifyCall w} (hlegal : c.par.legal = true)
    (hrow : rowStated c.span c.units c.addr = true) (hunits : c.units % 2 = 0) (hprogram : c.program = true) {f : Flash w}
    (herase : (engineRun c f).status &&& c.par.stErrorErase = 0)
    (hwrite : (engineRun c f).status &&& c.par.stErrorProgram = 0) : c.row (engineRun c f).flash = c.want := by
  obtain ⟨eraseMask, programMask⟩ := errorMasks_ne_zero hlegal
  obtain held | ⟨status, error⟩ | ⟨status, error⟩ := engineRun_row_or_error hrow hunits hprogram f
  · exact held
  · rw [error] at herase
    exact absurd herase (or_and_self_ne_zero eraseMask status)
  · rw [error] at hwrite
    exact absurd hwrite (or_and_self_ne_zero programMask status)

/-! ## The commands that make the call, and the read after it -/

/-- The two program commands in the Connected mode: one engine call each (R153, R154). -/
theorem exec_programPm_connected (code tblpag : Byte) (offset : Word16) (data : List Byte) (force : Bool) {s : State}
    (h : s.hs = true) :
    exec (if force then .programPmForce code tblpag offset data else .programPm code tblpag offset data) s =
      .next (modifyPm code (flashAddr tblpag offset) true force data s) := by
  cases force
  · exact whenConnected_hs h
  · exact whenConnected_hs h

/-- The row of a program-memory call is the 32 words that READ_ROW reads (R45, R170). -/
theorem pmCall_row (s : State) (addr : FlashAddr) (program force : Bool) (data : List Byte) (f : Flash 24) :
    (pmCall s addr program force data).row f = rowRead 32 s.pmView addr f := by
  change rowRead (s.pmView.units / 2) s.pmView addr f = _
  rw [pmView_units]

/-- A read after a program-memory modify reads the row as the engine left it. -/
theorem rowRead_modifyPm (code : Byte) (addr : FlashAddr) (program force : Bool) (data : List Byte) (s : State) :
    rowRead 32 (modifyPm code addr program force data s).pmView addr (modifyPm code addr program force data s).pm =
      (pmCall s addr program force data).row (engineRun (pmCall s addr program force data) s.pm).flash := by
  rw [modifyPm, send_pmView, send_pm, pmCall_row]
  rfl

/-- Settles O40: the row that the engine left, and a read that moves only the draw number. -/
theorem readAfterProgramReturnsTheData : Obligations.ReadAfterProgramReturnsTheData := by
  refine ⟨fun code tblpag offset data force s hs hlegal hrow => ?_, fun tblpag offset s hs himpl => ?_⟩
  · intro e herase hwrite
    have even : s.pmView.units % 2 = 0 := by simp
    have held := engineRun_row_of_noError (c := pmCall s (flashAddr tblpag offset) true force data) hlegal hrow even rfl
      herase hwrite
    obtain ⟨u, hread, sent⟩ := exec_readRow_answers tblpag offset
      ((modifyPm_hs code (flashAddr tblpag offset) true force data s).trans hs)
    rw [rowRead_modifyPm, held] at sent
    exact ⟨_, u, exec_programPm_connected code tblpag offset data force hs, hread, sent⟩
  · have first := execReadRow_connected tblpag offset hs
    refine ⟨_, _, _, first, execReadRow_connected tblpag offset ((send_hs ..).trans hs), send_txs .., ?_⟩
    rw [send_txs, send_pmView, drawn_pmView, send_pm, rowRead_drawn himpl]

end Sys2Proof.Machine
end

section
/-! The transmit side over a step (`20_memory.md` R53, `41_framer_tx.md` R101): a response is appended to `TXS` whole. -/

namespace Sys2Proof.Machine

/-- `TXS` stays as it was, or one whole frame is appended, of a length that a response record has (R71, R73, R75, R76). -/
def AppendsResponse (s t : State) : Prop :=
  t.txs = s.txs ∨ ∃ p : List Byte, p.length ∈ [1, 2, 16, 97] ∧ t.txs = s.txs ++ frameBytes p

theorem AppendsResponse.send {s t : State} (h : t.txs = s.txs) {p : List Byte} (hp : p.length ∈ [1, 2, 16, 97]) :
    AppendsResponse s (t.send p) := .inr ⟨p, hp, by rw [send_txs, h]⟩

/-- Behind the gate: the event alone sends nothing (R131). -/
theorem whenConnected_appendsResponse {code : Byte} {s t : State} {o : Host.Outcome State Fault Refusal}
    (ho : ∀ u, o = .next u → AppendsResponse s u) (h : whenConnected code s o = .next t) : AppendsResponse s t := by
  obtain ⟨-, rfl⟩ | ⟨-, ht⟩ := whenConnected_cases h
  · exact .inl (raise_txs ..)
  · exact ho t ht

theorem whenConnected_next_appendsResponse {code : Byte} {s t u : State} (hu : AppendsResponse s u)
    (h : whenConnected code s (.next u) = .next t) : AppendsResponse s t :=
  whenConnected_appendsResponse (fun _ he => Host.Outcome.next.inj he ▸ hu) h

theorem signature_length {p : Params} (h : p.legal = true) : p.signature.length = 8 := by
  simp only [Params.legal, Bool.and_eq_true, decide_eq_true_eq] at h
  obtain ⟨⟨⟨⟨⟨⟨⟨-, length⟩, -⟩, -⟩, -⟩, -⟩, -⟩, -⟩ := h
  exact length

theorem handshakePayload_length {p : Params} (h : p.legal = true) : (handshakePayload p).length = 16 := by
  simp [handshakePayload, bytesOfU16, bytesOfU32, signature_length h]

theorem readRowPayload_length {words : List PmWord} (h : words.length = 32) : (readRowPayload words).length = 97 := by
  simp [readRowPayload, bytesOfPmWord, List.length_flatMap, h]

theorem execHandshake_appendsResponse {s t : State} (hlegal : s.par.legal = true) (h : execHandshake s = .next t) :
    AppendsResponse s t := by
  rw [← Host.Outcome.next.inj h]
  exact .send rfl (by simp [handshakePayload_length hlegal])

theorem execReadRow_appendsResponse {tblpag : Byte} {offset : Word16} {s t : State}
    (h : execReadRow tblpag offset s = .next t) : AppendsResponse s t := by
  refine whenConnected_next_appendsResponse ?_ h
  exact .send rfl (by simp [readRowPayload_length])

theorem flagTested_txs (s : State) : (flagTested s).txs = s.txs := by
  unfold flagTested
  split <;> rfl

theorem execStartApp_appendsResponse {s t : State} (h : execStartApp s = .next t) : AppendsResponse s t := by
  refine whenConnected_appendsResponse (fun u hu => ?_) h
  split at hu
  · cases hu
  · rw [← Host.Outcome.next.inj hu]
    exact .send (p := [0xFC]) (flagTested_txs s) (by simp)

theorem execNoRegion_appendsResponse (code tblpag : Byte) (offset : Word16) (data : List Byte) {s t : State}
    (h : execNoRegion code tblpag offset data s = .next t) : AppendsResponse s t := by
  refine whenConnected_next_appendsResponse ?_ h
  split
  · exact .inl rfl
  · exact .send rfl (by simp)

theorem modifyPm_appendsResponse (code : Byte) (addr : FlashAddr) (program force : Bool) (data : List Byte) (s : State) :
    AppendsResponse s (modifyPm code addr program force data s) := .send rfl (by simp)

theorem modifyEe_appendsResponse (code : Byte) (addr : FlashAddr) (program force : Bool) (data : List Byte) (s : State) :
    AppendsResponse s (modifyEe code addr program force data s) := .send rfl (by simp)

/-- A request sends at most one response record, whole (R130). -/
theorem exec_request_appendsResponse {i : Instr} {s t : State} (hlegal : s.par.legal = true) (hi : i.layer = .request)
    (h : exec i s = .next t) : AppendsResponse s t := by
  cases i with
  | handshake => exact execHandshake_appendsResponse hlegal h
  | readRow => exact execReadRow_appendsResponse h
  | startApp => exact execStartApp_appendsResponse h
  | erasePm | erasePmForce | programPm | programPmForce =>
    exact whenConnected_next_appendsResponse (modifyPm_appendsResponse ..) h
  | eraseEe | eraseEeForce | programEe | programEeForce =>
    exact whenConnected_next_appendsResponse (modifyEe_appendsResponse ..) h
  | noRegion code tblpag offset data => exact execNoRegion_appendsResponse code tblpag offset data h
  | handshakeRsp | readRowRsp | startAppRsp | modifyRsp | frameStart | escAd | escAe | literal | frame => cases hi

/-- Settles O50: the framer sends nothing, and an accepted packet runs one request. -/
theorem responsesAreAppendedWhole : Obligations.ResponsesAreAppendedWhole := by
  intro s t hlegal h
  obtain ⟨-, framer⟩ | ⟨-, u, i, framer, hreq, hexec⟩ := step_cases_accepting h
  · exact .inl framer.txs
  · rw [← framer.txs]
    exact exec_request_appendsResponse (framer.par ▸ hlegal) (decodeRequest_layer hreq) hexec

end Sys2Proof.Machine
end

section
/-! The record layer in its two directions (`30_encoding.md` R66 to R78): fields and their bytes, the codes of a modify record, the
requests and the responses. -/

namespace Sys2Proof

open Machine

/-! ## Fields and their bytes (R48, R77) -/

theorem toNat_extractByte {w : Nat} (v : BitVec w) (k : Nat) : (v.extractLsb' k 8).toNat = v.toNat / 2 ^ k % 256 := by
  rw [BitVec.extractLsb'_toNat, Nat.shiftRight_eq_div_pow]

theorem u32OfBytes_toNat (b0 b1 b2 b3 : Byte) :
    (u32OfBytes b0 b1 b2 b3).toNat = b3.toNat * 16777216 + b2.toNat * 65536 + b1.toNat * 256 + b0.toNat := by
  refine (append_toNat (b3 ++ b2) (b1 ++ b0)).trans ?_
  rw [append_toNat b3 b2, append_toNat b1 b0]
  omega

/-- A 16-bit field is read back from its two bytes. -/
@[simp] theorem u16OfBytes_extract (v : Word16) : u16OfBytes (v.extractLsb' 0 8) (v.extractLsb' 8 8) = v := by
  apply BitVec.eq_of_toNat_eq
  simp only [u16OfBytes_toNat, toNat_extractByte]
  omega

@[simp] theorem u32OfBytes_extract (v : BitVec 32) :
    u32OfBytes (v.extractLsb' 0 8) (v.extractLsb' 8 8) (v.extractLsb' 16 8) (v.extractLsb' 24 8) = v := by
  apply BitVec.eq_of_toNat_eq
  simp only [u32OfBytes_toNat, toNat_extractByte]
  omega

@[simp] theorem pmWordOfBytes_extract (v : PmWord) :
    pmWordOfBytes (v.extractLsb' 0 8) (v.extractLsb' 8 8) (v.extractLsb' 16 8) = v := by
  apply BitVec.eq_of_toNat_eq
  simp only [pmWordOfBytes_toNat, toNat_extractByte]
  omega

/-- Two bytes are the bytes of the field they form. -/
@[simp] theorem bytesOfU16_u16OfBytes (lo hi : Byte) : bytesOfU16 (u16OfBytes lo hi) = [lo, hi] := by
  simp only [bytesOfU16, List.cons.injEq, and_true, ← BitVec.toNat_inj, toNat_extractByte, u16OfBytes_toNat]
  omega

theorem eq_bytesOfU16_iff {v : Word16} {lo hi : Byte} : [lo, hi] = bytesOfU16 v ↔ u16OfBytes lo hi = v := by
  constructor
  · intro h
    obtain ⟨rfl, rfl⟩ : lo = v.extractLsb' 0 8 ∧ hi = v.extractLsb' 8 8 := by simpa [bytesOfU16] using h
    exact u16OfBytes_extract v
  · rintro rfl
    exact (bytesOfU16_u16OfBytes lo hi).symm

@[simp] theorem bytesOfU32_u32OfBytes (b0 b1 b2 b3 : Byte) : bytesOfU32 (u32OfBytes b0 b1 b2 b3) = [b0, b1, b2, b3] := by
  simp only [bytesOfU32, List.cons.injEq, and_true, ← BitVec.toNat_inj, toNat_extractByte, u32OfBytes_toNat]
  omega

@[simp] theorem bytesOfPmWord_pmWordOfBytes (low high upper : Byte) :
    bytesOfPmWord (pmWordOfBytes low high upper) = [low, high, upper] := by
  simp only [bytesOfPmWord, List.cons.injEq, and_true, ← BitVec.toNat_inj, toNat_extractByte, pmWordOfBytes_toNat]
  omega

/-! ## Row data and its words (R73, R77) -/

/-- The words of a row are read back from their bytes. -/
theorem pmWordsOfBytes_flatMap (words : List PmWord) : pmWordsOfBytes (words.flatMap bytesOfPmWord) = words := by
  induction words with
  | nil => rfl
  | cons word words ih => simpa [bytesOfPmWord, pmWordsOfBytes] using ih

/-- Bytes in whole triples are the bytes of the words they form, one word for each three. -/
theorem flatMap_pmWordsOfBytes {n : Nat} {bytes : List Byte} (h : bytes.length = 3 * n) :
    (pmWordsOfBytes bytes).flatMap bytesOfPmWord = bytes ∧ (pmWordsOfBytes bytes).length = n := by
  induction n generalizing bytes with
  | zero => simp [List.length_eq_zero_iff.mp h, pmWordsOfBytes]
  | succ n ih =>
    match bytes, h with
    | low :: high :: upper :: rest, h =>
      have hrest : rest.length = 3 * n := by simpa [Nat.mul_add] using h
      simp [pmWordsOfBytes, ih hrest]

/-- The bytes of word `i` stand from offset `3 * i` on. -/
theorem flatMap_bytesOfPmWord_getElem? {words : List PmWord} {i : Nat} {word : PmWord} (h : words[i]? = some word) :
    (words.flatMap bytesOfPmWord)[3 * i]? = some (word.extractLsb' 0 8) ∧
    (words.flatMap bytesOfPmWord)[3 * i + 1]? = some (word.extractLsb' 8 8) ∧
    (words.flatMap bytesOfPmWord)[3 * i + 2]? = some (word.extractLsb' 16 8) := by
  induction words generalizing i with
  | nil => simp at h
  | cons first words ih =>
    cases i with
    | zero => simp_all [bytesOfPmWord]
    | succ i => simpa [bytesOfPmWord, Nat.mul_add] using ih (by simpa using h)

/-! ## Codes (R67, R78) -/

/-- A code byte is in a row of the table when its bits under the mask are the row's. -/
theorem codeMatches_iff {mask mtch code : Byte} :
    codeMatches mask mtch code = true ↔ ∀ j : Fin 8, (code[j] && mask[j]) = mtch[j] := by
  simp [codeMatches, BitVec.eq_of_getElem_eq_iff, Fin.forall_iff]

theorem modifyWellFormed_iff {mask mtch code : Byte} {data : List Byte} :
    modifyWellFormed mask mtch code data = true ↔
      (∀ j : Fin 8, (code[j] && mask[j]) = mtch[j]) ∧ data.length = 96 := by
  rw [modifyWellFormed, Bool.and_eq_true, codeMatches_iff, decide_eq_true_iff]

theorem fixedCommandCode_eq_false_iff {code : Byte} :
    fixedCommandCode code = false ↔ code ≠ 0x00 ∧ code ≠ 0x01 ∧ code ≠ 0x03 := by
  simp only [fixedCommandCode, Bool.or_eq_false_iff, decide_eq_false_iff_not, and_assoc]

/-- A code with a region bit is no fixed command. -/
theorem fixedCommandCode_of_region {code : Byte} (h : code[3] = true ∨ code[4] = true) : fixedCommandCode code = false := by
  refine fixedCommandCode_eq_false_iff.mpr ⟨?_, ?_, ?_⟩ <;> rintro rfl <;> exact absurd h (by decide)

theorem responseCode_eq_not (code : Byte) : responseCode code = ~~~code := BitVec.allOnes_sub_eq_not code

theorem responseCode_eq_xor (code : Byte) : responseCode code = code ^^^ 0xFF := by
  rw [responseCode_eq_not]; exact BitVec.xor_allOnes.symm

theorem responseCode_involutive (code : Byte) : responseCode (responseCode code) = code := by
  simp [responseCode_eq_not]

/-- The code byte of a modify response is none of the three fixed response codes exactly when its request is no fixed command. -/
theorem fixedCommandCode_responseCode {code : Byte} :
    fixedCommandCode (responseCode code) = false ↔ code ≠ 0xFF ∧ code ≠ 0xFE ∧ code ≠ 0xFC := by
  have complement (fixed : Byte) : responseCode code = fixed ↔ code = responseCode fixed :=
    ⟨fun h => by rw [← h, responseCode_involutive], fun h => by rw [h, responseCode_involutive]⟩
  simp only [fixedCommandCode_eq_false_iff, ne_eq, complement]
  rfl

/-! ## The requests (R70, R72, R74, R78) -/

/-- The modify command that a code's bits name is in the row of that code. -/
theorem decodeModify_wellFormed {code tblpag : Byte} {offset : Word16} {data : List Byte}
    (hcode : fixedCommandCode code = false) (hdata : data.length = 96) :
    (decodeModify code tblpag offset data).wellFormed = true := by
  unfold decodeModify
  split_ifs
  · split <;> simp_all [Instr.wellFormed, modifyWellFormed_iff, Fin.forall_fin_succ]
  · split <;> simp_all [Instr.wellFormed, modifyWellFormed_iff, Fin.forall_fin_succ]
  · simp_all [Instr.wellFormed, modifyWellFormed_iff, Fin.forall_fin_succ]

/-- A whole record under any code but the three fixed ones is read by the bits of its code (R74). -/
theorem decodeRequest_modifyRecord {code tblpag : Byte} {offset : Word16} {data : List Byte}
    (hcode : fixedCommandCode code = false) (hdata : data.length = 96) :
    decodeRequest (modifyRecord code tblpag offset data) = .ok (decodeModify code tblpag offset data) := by
  obtain ⟨handshake, readRow, startApp⟩ := fixedCommandCode_eq_false_iff.mp hcode
  simp only [modifyRecord, bytesOfU16, List.cons_append, List.nil_append, decodeRequest, if_neg handshake, if_neg readRow,
    if_neg startApp, u16OfBytes_extract, hdata, Nat.lt_irrefl, if_false]
  rw [List.take_of_length_le hdata.le]

/-- A request is read back from its record: the row of a modify code fixes the bits that DISPATCH tests (R66, R78). -/
theorem decodeRequest_encode {i : Instr} (layer : i.layer = .request) (wf : i.wellFormed = true) :
    decodeRequest (encode i) = .ok i := by
  cases i with
  | handshake | startApp => rfl
  | readRow tblpag offset => simp [encode, decodeRequest, bytesOfU16]
  | erasePm | erasePmForce | programPm | programPmForce | eraseEe | eraseEeForce | programEe | programEeForce =>
    obtain ⟨bits, hdata⟩ := modifyWellFormed_iff.mp wf
    rw [encode, decodeRequest_modifyRecord (fixedCommandCode_of_region (by simp_all [Fin.forall_fin_succ])) hdata]
    simp_all [decodeModify, Fin.forall_fin_succ]
  | noRegion =>
    obtain ⟨row, notFixed⟩ := (Bool.and_eq_true _ _).mp wf
    obtain ⟨bits, hdata⟩ := modifyWellFormed_iff.mp row
    rw [encode, decodeRequest_modifyRecord (by simpa using notFixed) hdata]
    simp_all [decodeModify, Fin.forall_fin_succ]
  | _ => cases layer

/-! ## The responses (R71, R73, R75, R76) -/

/-- A response record that is accepted is well-formed and is the encoding of what it is read as. -/
theorem decodeResponse_eq_ok {p : List Byte} {i : Instr} (h : decodeResponse p = .ok i) :
    encode i = p ∧ i.layer = .response ∧ i.wellFormed = true := by
  cases p with
  | nil => cases h
  | cons code body =>
    unfold decodeResponse at h
    dsimp only at h
    split at h
    · rename_i hcode
      split at h
      · split at h <;> cases h
        rename_i hrest
        subst hcode hrest
        exact ⟨by simp [encode], rfl, rfl⟩
      · cases h
    · rename_i handshake
      split at h
      · rename_i hcode
        split_ifs at h with short long
        cases h
        obtain ⟨bytes, length⟩ := flatMap_pmWordsOfBytes (n := 32) (bytes := body)
          (Nat.le_antisymm (Nat.not_lt.mp long) (Nat.not_lt.mp short))
        exact ⟨by rw [encode, bytes, hcode], rfl, by simp [Instr.wellFormed, length]⟩
      · rename_i readRow
        split at h
        · rename_i hcode
          split at h <;> cases h
          rename_i hbody
          subst hcode hbody
          exact ⟨rfl, rfl, rfl⟩
        · rename_i startApp
          split at h <;> cases h
          refine ⟨by rw [encode, ← responseCode, responseCode_involutive], rfl, ?_⟩
          rw [Instr.wellFormed, Bool.not_eq_true', ← responseCode, fixedCommandCode_responseCode]
          exact ⟨handshake, readRow, startApp⟩

/-- A response is read back from its record. -/
theorem decodeResponse_encode {i : Instr} (layer : i.layer = .response) (wf : i.wellFormed = true) :
    decodeResponse (encode i) = .ok i := by
  cases i with
  | handshakeRsp version signature size base =>
    match signature, wf with
    | [s0, s1, s2, s3, s4, s5, s6, s7], _ =>
      simp [encode, decodeResponse, bytesOfU16, bytesOfU32]
  | readRowRsp words =>
    have length : words.length = 32 := of_decide_eq_true wf
    have bytes : (words.flatMap bytesOfPmWord).length = 96 := by simp [bytesOfPmWord, List.length_flatMap, length]
    simp [encode, decodeResponse, bytes, pmWordsOfBytes_flatMap]
  | startAppRsp => rfl
  | modifyRsp code status =>
    rw [Instr.wellFormed, Bool.not_eq_true', ← responseCode_involutive code] at wf
    obtain ⟨handshake, readRow, startApp⟩ := fixedCommandCode_responseCode.mp wf
    simp only [encode, decodeResponse, if_neg handshake, if_neg readRow, if_neg startApp]
    rw [← responseCode, responseCode_involutive]
  | _ => cases layer

end Sys2Proof
end

section
/-! The wire layer in its two directions (`30_encoding.md` R60, R61, R79; `40_crc16.md` R93): the CRC field, the escape code, the
frame and the wire symbols. -/

namespace Sys2Proof

open Machine

/-! ## The CRC field (R93) -/

/-- An iteration of R91 that ends below the polynomial's top bit has only shifted, so it can be run backwards. -/
theorem crcShift_toNat_eq_iff {t : Word16} {m : Nat} (h : m < 2 ^ 15) : (crcShift t).toNat = m ↔ t.toNat = 2 * m := by
  have half : (t >>> 1).toNat = t.toNat / 2 := by simp [Nat.shiftRight_eq_div_pow]
  have low : t.getLsbD 0 = decide (t.toNat % 2 = 1) := Nat.testBit_zero _
  unfold crcShift
  split
  · rename_i odd
    have msb : (t >>> 1 ^^^ Config.crcPolyReflected).msb = true := by
      simpa [BitVec.msb_xor, BitVec.msb_ushiftRight] using (by decide : Config.crcPolyReflected.msb = true)
    have top := BitVec.le_toNat_of_msb_true msb
    rw [low, decide_eq_true_eq] at odd
    omega
  · rename_i even
    rw [low, decide_eq_true_eq] at even
    omega

theorem crcShift_iterate_toNat_eq_iff {n m : Nat} {t : Word16} (h : m * 2 ^ n < 2 ^ 16) :
    (crcShift^[n] t).toNat = m ↔ t.toNat = m * 2 ^ n := by
  induction n generalizing t with
  | zero => simp
  | succ n ih =>
    rw [pow_succ, ← mul_assoc] at h ⊢
    rw [Function.iterate_succ_apply, ih (by omega), crcShift_toNat_eq_iff (by omega)]
    omega

/-- A byte whose eight iterations end below `2 ^ 8` has only shifted the state (R91). -/
theorem crcUpdate_toNat_eq_iff {s : Word16} {b : Byte} {m : Nat} (h : m < 2 ^ 8) :
    (crcUpdate s b).toNat = m ↔ (s ^^^ b.zeroExtend 16).toNat = m * 2 ^ 8 :=
  crcShift_iterate_toNat_eq_iff (n := 8) (by omega)

theorem u16OfBytes_xor_low (lo hi : Byte) : (u16OfBytes lo hi ^^^ lo.zeroExtend 16).toNat = hi.toNat * 2 ^ 8 := by
  have cleared : u16OfBytes lo hi ^^^ lo.zeroExtend 16 = (hi ++ (0 : Byte) : BitVec 16) := by
    apply BitVec.eq_of_getLsbD_eq
    intro j hj
    simp only [u16OfBytes, BitVec.getLsbD_xor, BitVec.getLsbD_append, BitVec.getLsbD_setWidth, BitVec.zeroExtend]
    by_cases low : j < 8
    · simp [low, hj]
    · simp [low, BitVec.getLsbD_of_ge lo j (by omega)]
  rw [cleared, append_toNat hi (0 : Byte)]
  simp

/-- Two bytes after a state end it at zero exactly when they are its bytes, low byte first (R93). -/
theorem crcUpdate_crcUpdate_eq_zero_iff {s : Word16} {lo hi : Byte} :
    crcUpdate (crcUpdate s lo) hi = 0 ↔ u16OfBytes lo hi = s := calc
  crcUpdate (crcUpdate s lo) hi = 0
  _ ↔ (crcUpdate s lo ^^^ hi.zeroExtend 16).toNat = 0 := by
    rw [← BitVec.toNat_inj]; exact crcUpdate_toNat_eq_iff (m := 0) (by decide)
  _ ↔ crcUpdate s lo = hi.zeroExtend 16 := (BitVec.toNat_inj (y := 0)).trans BitVec.xor_eq_zero_iff
  _ ↔ (s ^^^ lo.zeroExtend 16).toNat = hi.toNat * 2 ^ 8 := by
    rw [← BitVec.toNat_inj, BitVec.toNat_setWidth, Nat.mod_eq_of_lt (by omega), crcUpdate_toNat_eq_iff hi.isLt]
  _ ↔ u16OfBytes lo hi = s := by
    rw [← u16OfBytes_xor_low lo hi, BitVec.toNat_inj, BitVec.xor_left_inj, eq_comm]

/-- The residue over payload and CRC field is zero exactly when the field is the payload's (R93). -/
theorem crcAccepts_append_iff {p : List Byte} {lo hi : Byte} :
    crcAccepts (crc16 (p ++ [lo, hi])) = true ↔ [lo, hi] = bytesOfU16 (crc16 p) := by
  have residue : crc16 (p ++ [lo, hi]) = crcUpdate (crcUpdate (crc16 p) lo) hi := by simp [crc16]
  rw [residue, crcAccepts, decide_eq_true_iff, crcUpdate_crcUpdate_eq_zero_iff, eq_bytesOfU16_iff]

/-! ## The escape code (R61, R100) -/

@[simp] theorem escEncode_escByte : escEncode Config.escByte = [Config.escByte, 0x00] := rfl

@[simp] theorem escEncode_frameStart : escEncode Config.frameStart = [Config.escByte, 0x01] := rfl

theorem escEncode_literal {d : Byte} (hesc : d ≠ Config.escByte) (hstart : d ≠ Config.frameStart) : escEncode d = [d] := by
  rw [escEncode, if_neg hesc, if_neg hstart]

/-- The decoder takes one byte off the escape code of a byte (R61). -/
theorem unescape_escEncode_append (d : Byte) (raw : List Byte) :
    unescape (escEncode d ++ raw) = (unescape raw).map (d :: ·) := by
  by_cases hesc : d = Config.escByte
  · subst hesc; rfl
  by_cases hstart : d = Config.frameStart
  · subst hstart; rfl
  rw [escEncode_literal hesc hstart, List.singleton_append, unescape.eq_def]
  simp only [if_neg hstart, if_neg hesc]

theorem except_map_eq_ok_iff {ε α β : Type} {f : α → β} {x : Except ε α} {b : β} :
    x.map f = .ok b ↔ ∃ a, x = .ok a ∧ f a = b := by
  cases x <;> simp [Except.map]

theorem except_bind_eq_ok_iff {ε α β : Type} {f : α → Except ε β} {x : Except ε α} {b : β} :
    x.bind f = .ok b ↔ ∃ a, x = .ok a ∧ f a = .ok b := by
  cases x <;> simp [Except.bind]

/-- The escape code, both ways: the raw bytes after a marker that decode to `decoded` are its escape code and no other (R61). -/
theorem unescape_eq_ok_iff {raw decoded : List Byte} :
    unescape raw = .ok decoded ↔ raw = decoded.flatMap escEncode := by
  constructor
  · intro h
    fun_induction unescape raw generalizing decoded with
    | case1 => cases h; rfl
    | case2 | case3 | case6 => cases h
    | case4 rest _ ih | case5 rest _ _ ih =>
      obtain ⟨tail, htail, rfl⟩ := except_map_eq_ok_iff.mp h
      rw [ih htail]; rfl
    | case7 r rest hstart hesc ih =>
      obtain ⟨tail, htail, rfl⟩ := except_map_eq_ok_iff.mp h
      rw [ih htail, List.flatMap_cons, escEncode_literal hesc hstart, List.singleton_append]
  · rintro rfl
    induction decoded with
    | nil => rfl
    | cons d decoded ih => rw [List.flatMap_cons, unescape_escEncode_append, ih]; rfl

/-! ## The frame (R60, R79) -/

/-- A frame is the marker and the escape code of its decoded bytes (R60). -/
theorem frameBytes_eq (p : List Byte) :
    frameBytes p = Config.frameStart :: (BitVec.ofNat 8 p.length :: (p ++ bytesOfU16 (crc16 p))).flatMap escEncode := by
  simp [frameBytes]

/-- The decoded bytes a receiver accepts: the length byte, the payload and the payload's own CRC field (R60, R79, R93). -/
theorem payloadOfDecoded_eq_ok_iff {decoded p : List Byte} :
    payloadOfDecoded decoded = .ok p ↔
      (1 ≤ p.length ∧ p.length ≤ 128) ∧ decoded = BitVec.ofNat 8 p.length :: (p ++ bytesOfU16 (crc16 p)) := by
  constructor
  · intro h
    cases decoded with
    | nil => cases h
    | cons n body =>
      unfold payloadOfDecoded at h
      dsimp only at h
      split_ifs at h with zero long short more accepts
      cases h
      have length : (body.take n.toNat).length = n.toNat := List.length_take_of_le (by omega)
      obtain ⟨lo, hi, field⟩ : ∃ lo hi, body.drop n.toNat = [lo, hi] :=
        List.length_eq_two.mp (by rw [List.length_drop]; omega)
      have split : body.take n.toNat ++ [lo, hi] = body := by rw [← field, List.take_append_drop]
      have positive : n.toNat ≠ 0 := fun h => zero (BitVec.eq_of_toNat_eq h)
      rw [length, ← crcAccepts_append_iff.mp (split ▸ accepts), split, BitVec.ofNat_toNat, BitVec.setWidth_eq]
      exact ⟨⟨by omega, Nat.not_lt.mp long⟩, rfl⟩
  · rintro ⟨⟨h1, h2⟩, rfl⟩
    have n : (BitVec.ofNat 8 p.length).toNat = p.length := Nat.mod_eq_of_lt (by omega)
    have accepts : crcAccepts (crc16 (p ++ bytesOfU16 (crc16 p))) = true := crcAccepts_append_iff.mpr rfl
    have nonzero : BitVec.ofNat 8 p.length ≠ 0 := fun h => by simp [h] at n; omega
    simp only [payloadOfDecoded, n, accepts]
    rw [if_neg nonzero, if_neg (Nat.not_lt.mpr h2), if_neg (by simp [bytesOfU16]), if_neg (by simp [bytesOfU16])]
    simp

theorem frame_wellFormed_iff {p : List Byte} :
    (Instr.frame p).wellFormed = true ↔ 1 ≤ p.length ∧ p.length ≤ 128 := by
  rw [Instr.wellFormed, Bool.and_eq_true, decide_eq_true_iff, decide_eq_true_iff]

/-- The frames, both ways: raw bytes are read as a frame exactly when they are its encoding (R60, R104). -/
theorem decodeFrame_eq_ok_iff {raw : List Byte} {i : Instr} :
    decodeFrame raw = .ok i ↔ encode i = raw ∧ i.layer = .frame ∧ i.wellFormed = true := by
  constructor
  · intro h
    cases raw with
    | nil => cases h
    | cons r rest =>
      simp only [decodeFrame] at h
      split_ifs at h with marker
      obtain ⟨p, hp, rfl⟩ := except_map_eq_ok_iff.mp h
      obtain ⟨decoded, raw, payload⟩ := except_bind_eq_ok_iff.mp hp
      obtain ⟨length, rfl⟩ := payloadOfDecoded_eq_ok_iff.mp payload
      refine ⟨?_, rfl, frame_wellFormed_iff.mpr length⟩
      rw [encode, frameBytes_eq, marker, unescape_eq_ok_iff.mp raw]
  · rintro ⟨rfl, layer, wf⟩
    cases i with
    | frame p =>
      have payload := payloadOfDecoded_eq_ok_iff.mpr ⟨frame_wellFormed_iff.mp wf, rfl⟩
      simp only [encode, frameBytes_eq, decodeFrame, if_true, unescape_eq_ok_iff.mpr rfl, Except.bind, payload, Except.map]
    | _ => cases layer

/-! ## The wire symbols (R61) -/

theorem literal_wellFormed_iff {b : Byte} :
    (Instr.literal b).wellFormed = true ↔ b ≠ Config.escByte ∧ b ≠ Config.frameStart := by
  rw [Instr.wellFormed, Bool.and_eq_true, decide_eq_true_iff, decide_eq_true_iff]

/-- With no escape pending a byte completes the marker or a literal, whose encoding it is (R111). -/
theorem decodeRaw_false_symbol {r : Byte} {i : Instr} (h : decodeRaw false r = .symbol i) :
    encode i = [r] ∧ i.layer = .symbol ∧ i.wellFormed = true := by
  simp only [decodeRaw, Bool.false_eq_true, if_false] at h
  split_ifs at h with hstart hesc <;> cases h
  · exact ⟨by rw [hstart]; rfl, rfl, rfl⟩
  · exact ⟨rfl, rfl, literal_wellFormed_iff.mpr ⟨hesc, hstart⟩⟩

theorem decodeRaw_false_escapePrefix {r : Byte} (h : decodeRaw false r = .escapePrefix) : r = Config.escByte := by
  simp only [decodeRaw, Bool.false_eq_true, if_false] at h
  split_ifs at h with hstart hesc
  exact hesc

theorem decodeRaw_literal {b : Byte} (h : (Instr.literal b).wellFormed = true) :
    decodeRaw false b = .symbol (.literal b) := by
  obtain ⟨hesc, hstart⟩ := literal_wellFormed_iff.mp h
  simp only [decodeRaw, Bool.false_eq_true, if_false, if_neg hesc, if_neg hstart]

/-- With an escape pending a byte completes an escape pair, whose second byte it is (R111). -/
theorem decodeRaw_true_symbol {x : Byte} {i : Instr} (h : decodeRaw true x = .symbol i) :
    encode i = [Config.escByte, x] ∧ i.layer = .symbol ∧ i.wellFormed = true := by
  simp only [decodeRaw, if_true] at h
  split_ifs at h with hx hx <;> cases h <;> exact ⟨by rw [hx]; rfl, rfl, rfl⟩

/-- The wire symbols, both ways: raw bytes are read as a symbol exactly when they are its encoding (R61). -/
theorem decodeSymbol_eq_ok_iff {raw : List Byte} {i : Instr} :
    decodeSymbol raw = .ok i ↔ encode i = raw ∧ i.layer = .symbol ∧ i.wellFormed = true := by
  constructor
  · intro h
    cases raw with
    | nil => cases h
    | cons r rest =>
      cases first : decodeRaw false r with
      | symbol j =>
        simp only [decodeSymbol, first] at h
        split_ifs at h with last
        cases h
        rw [last]
        exact decodeRaw_false_symbol first
      | illegalFollow => simp [decodeSymbol, first] at h
      | escapePrefix =>
        simp only [decodeSymbol, first] at h
        rw [decodeRaw_false_escapePrefix first]
        cases rest with
        | nil => cases h
        | cons x rest =>
          cases second : decodeRaw true x with
          | symbol j =>
            simp only [second] at h
            split_ifs at h with last
            cases h
            rw [last]
            exact decodeRaw_true_symbol second
          | illegalFollow | escapePrefix => simp [second] at h
  · rintro ⟨rfl, layer, wf⟩
    cases i with
    | frameStart | escAd | escAe => rfl
    | literal b => simp [encode, decodeSymbol, decodeRaw_literal wf]
    | _ => cases layer

end Sys2Proof
end

section
/-! The encoding (`30_encoding.md`): the decoders and the encoder agree, every code has its command, and the response records go
out by their layouts. -/

namespace Sys2Proof

open Machine

/-! ## Decoding and encoding (R60 to R78) -/

/-- On every layer but the requests' the decoder accepts the encodings of its well-formed instructions and nothing else. -/
theorem decode_eq_ok_iff {l : Layer} {bytes : List Byte} {i : Instr} (hl : l ≠ .request) :
    decode l bytes = .ok i ↔ encode i = bytes ∧ i.layer = l ∧ i.wellFormed = true := by
  cases l with
  | request => exact absurd rfl hl
  | response =>
    refine ⟨decodeResponse_eq_ok, ?_⟩
    rintro ⟨rfl, layer, wf⟩
    exact decodeResponse_encode layer wf
  | symbol => exact decodeSymbol_eq_ok_iff
  | frame => exact decodeFrame_eq_ok_iff

/-- Settles O56, layer by layer: the requests' decoder ignores what follows a record, the others accept nothing else. -/
theorem decodeInvertsEncode : Obligations.DecodeInvertsEncode := by
  intro i wf
  by_cases layer : i.layer = .request
  · rw [layer]
    exact decodeRequest_encode layer wf
  · exact (decode_eq_ok_iff layer).mpr ⟨rfl, rfl, wf⟩

/-- Settles O57, by what each of the three decoders accepts. -/
theorem encodeInvertsDecode : Obligations.EncodeInvertsDecode :=
  fun _ _ _ hl h => (decode_eq_ok_iff hl).mp h

/-! ## The response records (R67, R71, R73, R75, R76) -/

/-- Settles O8: each record is short enough for SEND, and the words of a row stand three bytes apart. -/
theorem responseRecordsAreSentByTheirLayouts : Obligations.ResponseRecordsAreSentByTheirLayouts := by
  refine ⟨fun v s0 s1 s2 s3 s4 s5 s6 s7 z b s => ?handshake, fun words s hwords => ?readRow, fun s => ?startApp,
    fun code status s => ?modify⟩
  case handshake =>
    exact sendChecked_next (p := encode (.handshakeRsp v [s0, s1, s2, s3, s4, s5, s6, s7] z b)) s (by simp [encode])
      (by simp [encode, bytesOfU16, bytesOfU32, Config.txMaxlen])
  case startApp => exact sendChecked_next (p := encode .startAppRsp) s (by decide) (by decide)
  case modify =>
    exact sendChecked_next (p := encode (.modifyRsp code status)) s (by simp [encode]) (by simp [encode, Config.txMaxlen])
  case readRow =>
    have length : (readRowPayload words).length = 97 := readRowPayload_length hwords
    have sent := sendChecked_next (p := readRowPayload words) s (by omega) (length.trans_le (by decide))
    refine ⟨readRowPayload words, sent, length, rfl, fun i word hword => ?_⟩
    rw [Nat.add_comm 1, Nat.add_comm 2, Nat.add_comm 3]
    exact flatMap_bytesOfPmWord_getElem? hword

/-- Settles O33: subtraction from all-ones is the complement, and the listed codes are evaluated. -/
theorem responseCodesAreComplements : Obligations.ResponseCodesAreComplements :=
  ⟨fun code => ⟨responseCode_eq_not code, responseCode_eq_xor code⟩, rfl, rfl, rfl, rfl⟩

/-! ## The map of the request codes (R78) -/

/-- Every code with 99 further zero bytes is a well-formed request. -/
theorem decodeRequest_zeros (code : Byte) :
    ∃ i, decodeRequest (code :: List.replicate 99 0) = .ok i ∧ i.wellFormed = true := by
  cases fixed : fixedCommandCode code with
  | true =>
    obtain (rfl | rfl) | rfl : (code = 0x00 ∨ code = 0x01) ∨ code = 0x03 := by
      simpa only [fixedCommandCode, Bool.or_eq_true, decide_eq_true_iff] using fixed
    all_goals exact ⟨_, rfl, rfl⟩
  | false =>
    have data : (List.replicate 96 (0 : Byte)).length = 96 := List.length_replicate
    exact ⟨_, decodeRequest_modifyRecord (tblpag := 0) (offset := 0) fixed data, decodeModify_wellFormed fixed data⟩

/-- Settles O58: a fixed code is its command, every other one a modify command by its bits; the 256 codes are then counted. -/
theorem commandMapHasItsCounts : Obligations.CommandMapHasItsCounts :=
  ⟨decodeRequest_zeros, by decide +kernel, by decide +kernel, by decide +kernel, by decide +kernel, by decide +kernel,
    by decide +kernel⟩

/-- Settles O59: the records and symbols are read by evaluation, the frame as the encoding of its one-byte payload. -/
theorem writtenOutWordsDecode : Obligations.WrittenOutWordsDecode :=
  ⟨rfl, rfl, rfl, rfl, rfl, rfl, rfl, rfl, rfl, rfl, decodeFrame_eq_ok_iff.mpr ⟨by decide, rfl, rfl⟩⟩

end Sys2Proof
end

section
/-! The CRC-16 generator (`40_crc16.md` R91 to R95): the update step is linear, invertible, and only shifts the low byte it is fed. -/

namespace Sys2Proof.Machine

/-! ## Width (R94 (a)) -/

/-- A byte enters the state through its low half only, before the iterations (R91). -/
theorem crcUpdate_eq_crcUpdate_xor_zero (s : Word16) (b : Byte) : crcUpdate s b = crcUpdate (s ^^^ b.zeroExtend 16) 0 := by
  simp [crcUpdate, BitVec.zeroExtend]

theorem extractHigh_xor_zeroExtend (s : Word16) (b : Byte) : (s ^^^ b.zeroExtend 16).extractLsb' 8 8 = s.extractLsb' 8 8 := by
  apply BitVec.eq_of_getLsbD_eq
  intro j hj
  simp [BitVec.zeroExtend]

/-! ## Linearity (R94 (b)) -/

/-- The bit tested of a sum is the sum of the bits tested, so the polynomial is taken in it once, twice or not at all. -/
theorem crcShift_xor (s t : Word16) : crcShift (s ^^^ t) = crcShift s ^^^ crcShift t := by
  simp only [crcShift, BitVec.getLsbD_xor, BitVec.ushiftRight_xor_distrib]
  cases s.getLsbD 0 <;> cases t.getLsbD 0
  case false.false => rfl
  case false.true => exact BitVec.xor_assoc _ _ _
  case true.false =>
    change s >>> 1 ^^^ t >>> 1 ^^^ Config.crcPolyReflected = (s >>> 1 ^^^ Config.crcPolyReflected) ^^^ t >>> 1
    ac_rfl
  case true.true => calc
    s >>> 1 ^^^ t >>> 1
    _ = (s >>> 1 ^^^ t >>> 1) ^^^ (Config.crcPolyReflected ^^^ Config.crcPolyReflected) := by simp
    _ = (s >>> 1 ^^^ Config.crcPolyReflected) ^^^ (t >>> 1 ^^^ Config.crcPolyReflected) := by ac_rfl

theorem crcUpdate_xor (s t : Word16) (b d : Byte) : crcUpdate (s ^^^ t) (b ^^^ d) = crcUpdate s b ^^^ crcUpdate t d := by
  have input : s ^^^ t ^^^ (b ^^^ d).zeroExtend 16 = (s ^^^ b.zeroExtend 16) ^^^ (t ^^^ d.zeroExtend 16) := by
    rw [BitVec.zeroExtend, BitVec.setWidth_xor]
    ac_rfl
  have iterated : Function.Semiconj₂ crcShift^[8] (· ^^^ ·) (· ^^^ ·) := Function.Semiconj₂.iterate crcShift_xor 8
  exact (congrArg crcShift^[8] input).trans (iterated _ _)

theorem crcUpdate_zero_zero : crcUpdate 0 0 = 0 := by decide

/-! ## Invertibility (R94 (c)) -/

/-- Two states with one successor differ by a state whose successor is zero, and only zero has that one. -/
theorem crcShift_injective : Function.Injective crcShift := by
  intro s t h
  have successor : crcShift (s ^^^ t) = 0 := by rw [crcShift_xor, h]; exact BitVec.xor_self
  have difference : (s ^^^ t).toNat = 0 := (crcShift_toNat_eq_iff (m := 0) (by decide)).mp (congrArg BitVec.toNat successor)
  exact BitVec.xor_eq_zero_iff.mp (BitVec.eq_of_toNat_eq difference)

theorem crcShift_bijective : Function.Bijective crcShift := Finite.injective_iff_bijective.mp crcShift_injective

theorem crcUpdate_bijective (b : Byte) : Function.Bijective fun s => crcUpdate s b := by
  have addByte : Function.Bijective fun s : Word16 => s ^^^ b.zeroExtend 16 :=
    Finite.injective_iff_bijective.mp fun _ _ => (BitVec.xor_left_inj _).mp
  exact (crcShift_bijective.iterate 8).comp addByte

/-! ## The residue (R94 (d), (e)) -/

/-- The low byte cancels and the eight iterations shift the high one down. -/
theorem crcUpdate_extractLow (c : Word16) : crcUpdate c (c.extractLsb' 0 8) = c >>> 8 := by
  have high : (c >>> 8).toNat = (c.extractLsb' 8 8).toNat := by
    rw [toNat_extractByte, BitVec.toNat_ushiftRight, Nat.shiftRight_eq_div_pow]
    omega
  have cancelled := u16OfBytes_xor_low (c.extractLsb' 0 8) (c.extractLsb' 8 8)
  rw [u16OfBytes_extract] at cancelled
  exact BitVec.eq_of_toNat_eq (((crcUpdate_toNat_eq_iff (c.extractLsb' 8 8).isLt).mpr cancelled).trans high.symm)

theorem crcUpdate_shifted_extractHigh (c : Word16) : crcUpdate (c >>> 8) (c.extractLsb' 8 8) = 0 := by
  rw [← crcUpdate_extractLow, crcUpdate_crcUpdate_eq_zero_iff, u16OfBytes_extract]

theorem crc16_append_eq_zero_iff {p : List Byte} {lo hi : Byte} :
    crc16 (p ++ [lo, hi]) = 0 ↔ [lo, hi] = bytesOfU16 (crc16 p) :=
  decide_eq_true_iff.symm.trans crcAccepts_append_iff

/-! ## The statements of the CRC (R93 to R95) -/

/-- Settles O1, law by law: the width, the linearity, the bijections, the residue and its uniqueness. -/
theorem crcUpdateObeysItsLaws : Obligations.CrcUpdateObeysItsLaws := by
  refine ⟨fun s b => ⟨crcUpdate_eq_crcUpdate_xor_zero s b, extractHigh_xor_zeroExtend s b⟩, fun s1 s2 b1 b2 => ?affine,
    crcUpdate_zero_zero, crcShift_bijective, crcUpdate_bijective,
    fun c => ⟨crcUpdate_extractLow c, crcUpdate_shifted_extractHigh c⟩,
    fun p => crc16_append_eq_zero_iff.mpr rfl, fun p lo hi => crc16_append_eq_zero_iff⟩
  case affine => rw [crcUpdate_zero_zero, crcUpdate_xor]; exact BitVec.xor_zero.symm

/-- Settles O2: the two bytes end the accumulator at zero exactly when they are its own. -/
theorem crcCheckAcceptsExactlyTheMatchingField : Obligations.CrcCheckAcceptsExactlyTheMatchingField :=
  fun _ _ _ => decide_eq_true_iff.trans crcUpdate_crcUpdate_eq_zero_iff

/-- Settles O3: by linearity a byte is the state's low byte, which shifts the state, plus a byte fed to the zero state. -/
theorem crcTableFormEqualsBitwiseForm : Obligations.CrcTableFormEqualsBitwiseForm := by
  intro s b
  have low : s.extractLsb' 0 8 = s.setWidth 8 := (BitVec.setWidth_eq_extractLsb' (by decide)).symm
  calc crcUpdateByTable s b
    _ = crcUpdate s (s.setWidth 8) ^^^ crcUpdate 0 (s.setWidth 8 ^^^ b) := by
      rw [← low, crcUpdate_extractLow, low, crcUpdateByTable]
    _ = crcUpdate (s ^^^ 0) (s.setWidth 8 ^^^ (s.setWidth 8 ^^^ b)) := (crcUpdate_xor s 0 _ _).symm
    _ = crcUpdate s b := by simp

end Sys2Proof.Machine
end

section
/-! The transmit framer (`41_framer_tx.md` R100 to R103): the escape code of one byte, the shape of a sent frame, and SEND with its
precondition. -/

namespace Sys2Proof

open Machine

/-! ## The escape code of a byte (R61, R100) -/

/-- ESC_ENCODE, by its three cases (R100). -/
theorem escEncode_cases (d : Byte) :
    (d = Config.escByte ∧ escEncode d = [Config.escByte, 0x00]) ∨
    (d = Config.frameStart ∧ escEncode d = [Config.escByte, 0x01]) ∨
    (d ≠ Config.escByte ∧ d ≠ Config.frameStart ∧ escEncode d = [d]) := by
  by_cases hesc : d = Config.escByte
  · exact .inl ⟨hesc, hesc ▸ escEncode_escByte⟩
  by_cases hstart : d = Config.frameStart
  · exact .inr (.inl ⟨hstart, hstart ▸ escEncode_frameStart⟩)
  exact .inr (.inr ⟨hesc, hstart, escEncode_literal hesc hstart⟩)

theorem escEncode_of_toNat_lt {d : Byte} (h : d.toNat < 0xAD) : escEncode d = [d] :=
  escEncode_literal (by rintro rfl; revert h; decide) (by rintro rfl; revert h; decide)

/-- The raw bytes of a byte are one symbol, which yields that byte (R61). -/
theorem decodeSymbol_escEncode (d : Byte) : ∃ i, decodeSymbol (escEncode d) = .ok i ∧ i.decodedByte = some d := by
  obtain ⟨rfl, code⟩ | ⟨rfl, code⟩ | ⟨hesc, hstart, code⟩ := escEncode_cases d <;> rw [code]
  · exact ⟨.escAd, rfl, rfl⟩
  · exact ⟨.escAe, rfl, rfl⟩
  · exact ⟨.literal d, decodeSymbol_eq_ok_iff.mpr ⟨rfl, rfl, literal_wellFormed_iff.mpr ⟨hesc, hstart⟩⟩, rfl⟩

theorem decodeSymbol_illegalFollow {x : Byte} (h0 : x ≠ 0x00) (h1 : x ≠ 0x01) :
    decodeSymbol [Config.escByte, x] = .error (.illegalEscape x) := by
  have first : decodeRaw false Config.escByte = .escapePrefix := rfl
  have second : decodeRaw true x = .illegalFollow := by simp only [decodeRaw, if_true, if_neg h0, if_neg h1]
  simp only [decodeSymbol, first, second]

/-- Settles O4: the escape code by its cases, each read back as its own symbol. -/
theorem escapeCodeIsItsTable : Obligations.EscapeCodeIsItsTable :=
  ⟨escEncode_escByte, escEncode_frameStart, fun _ => escEncode_literal, decodeSymbol_escEncode,
    fun _ => decodeSymbol_illegalFollow, rfl⟩

/-! ## Escaped bytes (R103) -/

theorem frameStart_notMem_escEncode (d : Byte) : Config.frameStart ∉ escEncode d := by
  obtain ⟨-, code⟩ | ⟨-, code⟩ | ⟨-, hstart, code⟩ := escEncode_cases d <;> rw [code]
  · decide
  · decide
  · exact mt List.mem_singleton.mp (Ne.symm hstart)

/-- Every `0xAD` in the raw bytes is followed by `0x00` or `0x01` (R103 (b)). -/
def PairedPrefixes (raw : List Byte) : Prop :=
  ∀ k : Nat, raw[k]? = some Config.escByte → raw[k + 1]? = some 0x00 ∨ raw[k + 1]? = some 0x01

theorem PairedPrefixes.nil : PairedPrefixes [] := fun _ h => nomatch h

theorem PairedPrefixes.cons {r : Byte} {raw : List Byte} (hr : r ≠ Config.escByte) (h : PairedPrefixes raw) :
    PairedPrefixes (r :: raw) := by
  intro k hk
  cases k with
  | zero => exact absurd (Option.some.inj hk) hr
  | succ k => exact h k hk

theorem PairedPrefixes.pair {x : Byte} {raw : List Byte} (hx : x = 0x00 ∨ x = 0x01) (h : PairedPrefixes raw) :
    PairedPrefixes (Config.escByte :: x :: raw) := by
  have tail : PairedPrefixes (x :: raw) := h.cons (by rintro rfl; revert hx; decide)
  intro k hk
  cases k with
  | zero => exact hx.imp (congrArg some) (congrArg some)
  | succ k => exact tail k hk

/-- ESC_ENCODE sends `0xAD` only as the first byte of a pair (R100). -/
theorem PairedPrefixes.escEncode_append (d : Byte) {raw : List Byte} (h : PairedPrefixes raw) :
    PairedPrefixes (escEncode d ++ raw) := by
  obtain ⟨-, code⟩ | ⟨-, code⟩ | ⟨hesc, -, code⟩ := escEncode_cases d <;> rw [code]
  · exact h.pair (.inl rfl)
  · exact h.pair (.inr rfl)
  · exact h.cons hesc

theorem pairedPrefixes_flatMap_escEncode (decoded : List Byte) : PairedPrefixes (decoded.flatMap escEncode) := by
  induction decoded with
  | nil => exact .nil
  | cons d decoded ih => exact List.flatMap_cons ▸ ih.escEncode_append d

theorem escEncode_length (d : Byte) : 1 ≤ (escEncode d).length ∧ (escEncode d).length ≤ 2 := by
  obtain ⟨-, code⟩ | ⟨-, code⟩ | ⟨-, -, code⟩ := escEncode_cases d <;> rw [code] <;> simp

theorem flatMap_escEncode_length (decoded : List Byte) :
    decoded.length ≤ (decoded.flatMap escEncode).length ∧ (decoded.flatMap escEncode).length ≤ 2 * decoded.length := by
  induction decoded with
  | nil => simp
  | cons d decoded ih =>
    have code := escEncode_length d
    rw [List.flatMap_cons, List.length_append, List.length_cons]
    omega

/-! ## The sent frame (R60, R103) -/

/-- A legal length byte is below `0xAD` and the marker, so it is sent as itself (R60). -/
theorem frameBytes_eq_of_length_le {p : List Byte} (h : p.length ≤ 128) :
    frameBytes p = Config.frameStart :: BitVec.ofNat 8 p.length :: (p ++ bytesOfU16 (crc16 p)).flatMap escEncode := by
  have n : (BitVec.ofNat 8 p.length).toNat = p.length := Nat.mod_eq_of_lt (by omega)
  rw [frameBytes_eq, List.flatMap_cons, escEncode_of_toNat_lt (by omega), List.singleton_append]

theorem frameBytes_length {p : List Byte} (h : p.length ≤ 128) :
    p.length + 4 ≤ (frameBytes p).length ∧ (frameBytes p).length ≤ 2 * p.length + 6 := by
  have escaped := flatMap_escEncode_length (p ++ bytesOfU16 (crc16 p))
  have decoded : (p ++ bytesOfU16 (crc16 p)).length = p.length + 2 := by simp [bytesOfU16]
  rw [frameBytes_eq_of_length_le h, List.length_cons, List.length_cons]
  omega

/-- Settles O5: what follows the marker is an escape code, whose bytes (a) to (c) speak of; the length byte is never a pair. -/
theorem sentFrameHasOneMarkerAndPairedPrefixes : Obligations.SentFrameHasOneMarkerAndPairedPrefixes := by
  intro p _ h128
  refine ⟨⟨_, frameBytes_eq p, ?marker⟩, ?prefixes, frameBytes_length h128⟩
  case marker =>
    intro mem
    obtain ⟨d, -, hd⟩ := List.mem_flatMap.mp mem
    exact frameStart_notMem_escEncode d hd
  case prefixes =>
    rw [frameBytes_eq]
    exact (pairedPrefixes_flatMap_escEncode _).cons (by decide)

/-! ## SEND (R101, R102) -/

/-- Running the FRAME row is SEND of its payload, under SEND's precondition (R60, R101). -/
theorem exec_frame (p : List Byte) (s : State) : exec (.frame p) s = sendChecked p s := rfl

/-- The raw bytes of a frame in the order of R102, the two CRC bytes apart. -/
theorem frameBytes_eq_fields (p : List Byte) :
    frameBytes p = [Config.frameStart] ++ escEncode (BitVec.ofNat 8 p.length) ++ p.flatMap escEncode ++
      escEncode ((crc16 p).extractLsb' 0 8) ++ escEncode ((crc16 p).extractLsb' 8 8) := by
  simp [frameBytes, bytesOfU16]

theorem sendChecked_refused {p : List Byte} (s : State) (h : p.length = 0 ∨ 128 < p.length) :
    sendChecked p s = .refused (.sendLength p.length) := if_neg (by rw [Config.txMaxlen]; omega)

/-- Settles O6: SEND appends the frame, whose bytes R102 lists in order. -/
theorem sendAppendsTheWholeFrame : Obligations.SendAppendsTheWholeFrame := by
  intro p s h1 h128
  rw [exec_frame, sendChecked_next s h1 h128, State.send, frameBytes_eq_fields]
  simp only [List.append_assoc]
  rfl

/-- Settles O7: outside 1 to 128 bytes SEND's precondition fails. -/
theorem sendRefusesOtherLengths : Obligations.SendRefusesOtherLengths :=
  fun p s h => (exec_frame p s).trans (sendChecked_refused s h)

end Sys2Proof
end

section
/-! The receive framer symbol by symbol (`42_framer_rx.md` R110 to R120): what each wire symbol does in each receive state, and which
symbol a raw byte completes. -/

namespace Sys2Proof.Machine

/-! ## A decoded byte, by the receive state (R115 to R120) -/

/-- A marker goes to `LENGTH`; outside `HEADER` a frame is abandoned (R112, R215). -/
theorem marker_eq_resync (s : State) : marker s = { s with
    rxst := .length
    evlog := s.evlog ++ (if s.rxst = .header then [] else [.resync s.rxst]) } := by
  cases hst : s.rxst <;> simp [marker, hst, State.takeEvent, State.raise]

theorem decoded_header {s : State} (h : s.rxst = .header) (d : Byte) : decoded d s = .next s := by
  simp only [decoded, h]

theorem decoded_length {s : State} (h : s.rxst = .length) (d : Byte) : decoded d s = .next (lengthByte d s) := by
  simp only [decoded, h]

theorem decoded_data {s : State} (h : s.rxst = .data) (d : Byte) : decoded d s = dataByte d s := by
  simp only [decoded, h]

theorem decoded_crcLsb {s : State} (h : s.rxst = .crcLsb) (d : Byte) : decoded d s = .next (crcLow d s) := by
  simp only [decoded, h]

theorem decoded_crcMsb {s : State} (h : s.rxst = .crcMsb) (d : Byte) : decoded d s = .next (crcHigh d s) := by
  simp only [decoded, h]

theorem lengthByte_zero (s : State) : lengthByte 0 s = s.takeEvent .lengthZero .header := if_pos rfl

theorem lengthByte_tooLong {d : Byte} {s : State} (h0 : d ≠ 0) (h : s.par.rxMaxlen < d.toNat) :
    lengthByte d s = s.takeEvent (.lengthTooLong d) .header := by
  rw [lengthByte, if_neg h0, if_pos h]

theorem lengthByte_accepted {d : Byte} {s : State} (h0 : d ≠ 0) (h : d.toNat ≤ s.par.rxMaxlen) :
    lengthByte d s = { s with rxlen := d, rxcnt := 0, rxcrc := crcInit, rxst := .data } := by
  rw [lengthByte, if_neg h0, if_neg (Nat.not_lt.mpr h)]

/-- With the index in range the byte is stored (R118). -/
theorem dataByte_stores {s : State} (h : s.rxcnt.toNat < s.rxbuf.length) (d : Byte) :
    dataByte d s = .next { s.storeByte s.rxcnt.toNat d with
      rxcrc := crcUpdate s.rxcrc d
      rxcnt := s.rxcnt + 1
      rxst := if s.rxcnt + 1 = s.rxlen then .crcLsb else s.rxst } := if_pos h

theorem crcHigh_of_residue_zero {d : Byte} {s : State} (h : crcUpdate s.rxcrc d = 0) :
    crcHigh d s = { s with rxcrc := 0, rxst := .header } := by
  simp only [crcHigh, crcAccepts, h, decide_true, if_true]

theorem crcHigh_of_residue_ne_zero {d : Byte} {s : State} (h : crcUpdate s.rxcrc d ≠ 0) :
    crcHigh d s = { s with
      rxcrc := crcUpdate s.rxcrc d
      rxst := .header
      evlog := s.evlog ++ [.crcMismatch (crcUpdate s.rxcrc d)] } := by
  simp only [crcHigh, crcAccepts, h, decide_false, Bool.false_eq_true, if_false, State.raise]

/-! ## A wire symbol that yields a byte (R113, R115) -/

/-- Running such a symbol ends the escape of a pair and gives its byte to the framer. -/
theorem exec_of_decodedByte {i : Instr} {d : Byte} (h : i.decodedByte = some d) (s : State) :
    exec i s = decoded d (afterEscape i s) := by
  cases i with
  | escAd | escAe | literal => cases h; rfl
  | _ => cases h

/-- At most the escape flag is written. -/
theorem afterEscape_eq (i : Instr) (s : State) : ∃ esc, afterEscape i s = { s with esc := esc } := by
  unfold afterEscape
  split <;> exact ⟨_, rfl⟩

theorem afterEscape_rxst (i : Instr) (s : State) : (afterEscape i s).rxst = s.rxst := by
  obtain ⟨esc, h⟩ := afterEscape_eq i s
  rw [h]

theorem afterEscape_rxs (i : Instr) (s : State) (rest : List Byte) :
    afterEscape i { s with rxs := rest } = { afterEscape i s with rxs := rest } := by
  cases i <;> rfl

/-- Settles O10: `HEADER` keeps the state the symbol's escape leaves. -/
theorem decodedByteInHeaderIsDiscarded : Obligations.DecodedByteInHeaderIsDiscarded := by
  intro i d s hi hst
  rw [exec_of_decodedByte hi, decoded_header ((afterEscape_rxst i s).trans hst)]

/-- Settles O11, by the three cases of the length byte. -/
theorem lengthByteIsCheckedThenAccepted : Obligations.LengthByteIsCheckedThenAccepted := by
  intro i d s hi hst
  rw [exec_of_decodedByte hi, decoded_length ((afterEscape_rxst i s).trans hst)]
  obtain ⟨esc, hesc⟩ := afterEscape_eq i s
  rw [hesc]
  refine ⟨?zero, fun h0 hlong => ?tooLong, fun h0 hle => ?accepted⟩
  case zero =>
    rintro rfl
    exact congrArg _ (lengthByte_zero _)
  case tooLong => exact congrArg _ (lengthByte_tooLong h0 hlong)
  case accepted => exact congrArg _ (lengthByte_accepted h0 hle)

/-- Settles O12: the index is in range, so the byte is stored. -/
theorem dataByteIsStoredAndCounted : Obligations.DataByteIsStoredAndCounted := by
  intro i d s hi hst hidx
  rw [exec_of_decodedByte hi, decoded_data ((afterEscape_rxst i s).trans hst)]
  obtain ⟨esc, hesc⟩ := afterEscape_eq i s
  rw [hesc, dataByte_stores (s := { s with esc := esc }) hidx, hst]
  rfl

/-- Settles O13: `crcLow` writes the accumulator and the receive state. -/
theorem crcLowByteEntersTheAccumulator : Obligations.CrcLowByteEntersTheAccumulator := by
  intro i d s hi hst
  rw [exec_of_decodedByte hi, decoded_crcLsb ((afterEscape_rxst i s).trans hst)]
  obtain ⟨esc, hesc⟩ := afterEscape_eq i s
  rw [hesc]
  rfl

section
variable {i : Instr} {d : Byte} {s : State} (hi : i.decodedByte = some d) (hst : s.rxst = .crcMsb)
include hi hst

/-- The CRC high byte with a non-zero residue: the silent drop (R120, R214). -/
theorem exec_crcHigh_of_residue_ne_zero (h : crcUpdate s.rxcrc d ≠ 0) : exec i s = .next { afterEscape i s with
    rxcrc := crcUpdate s.rxcrc d, rxst := .header, evlog := s.evlog ++ [.crcMismatch (crcUpdate s.rxcrc d)] } := by
  rw [exec_of_decodedByte hi, decoded_crcMsb ((afterEscape_rxst i s).trans hst)]
  obtain ⟨esc, hesc⟩ := afterEscape_eq i s
  rw [hesc, crcHigh_of_residue_ne_zero (s := { s with esc := esc }) h]

/-- The CRC high byte with residue zero, before DISPATCH (R120). -/
theorem exec_crcHigh_of_residue_zero (h : crcUpdate s.rxcrc d = 0) :
    exec i s = .next { afterEscape i s with rxcrc := 0, rxst := .header } := by
  rw [exec_of_decodedByte hi, decoded_crcMsb ((afterEscape_rxst i s).trans hst)]
  obtain ⟨esc, hesc⟩ := afterEscape_eq i s
  rw [hesc, crcHigh_of_residue_zero (s := { s with esc := esc }) h]

theorem acceptsPacket_iff_residue_zero : acceptsPacket i s = true ↔ crcUpdate s.rxcrc d = 0 := by
  simp [acceptsPacket, hi, hst, crcAccepts]

end

/-! ## Running a symbol (R120, R121) -/

theorem runSymbol_of_not_accepts {i : Instr} {s : State} (h : acceptsPacket i s = false) : runSymbol i s = exec i s := by
  unfold runSymbol
  cases exec i s <;> simp [h]

theorem runSymbol_of_accepts {i : Instr} {s u : State} (h : acceptsPacket i s = true) (hu : exec i s = .next u) :
    runSymbol i s = dispatch u := by
  simp only [runSymbol, hu, h, if_true]

/-- The pair `AD 00` is the decoded byte `0xAD` with the escape ended (R113). -/
theorem runSymbol_escAd (s : State) : runSymbol .escAd s = runSymbol (.literal Config.escByte) { s with esc := false } := rfl

/-- The pair `AD 01` is the decoded byte `0xAE`, data and not a marker (R113). -/
theorem runSymbol_escAe (s : State) : runSymbol .escAe s = runSymbol (.literal Config.frameStart) { s with esc := false } := rfl

/-- Outside `CRC_MSB` a decoded byte is the framer's effect alone. -/
theorem runSymbol_literal {d : Byte} {s : State} (h : s.rxst ≠ .crcMsb) : runSymbol (.literal d) s = decoded d s :=
  runSymbol_of_not_accepts (Bool.eq_false_of_not_eq_true fun ha => h (rxst_of_acceptsPacket ha))

/-! ## The tests on a raw byte (R111) -/

theorem rxStep_symbol {r : Byte} {i : Instr} {s : State} (h : decodeRaw s.esc r = .symbol i) : rxStep r s = runSymbol i s := by
  simp only [rxStep, h]

theorem rxStep_illegalFollow {r : Byte} {s : State} (hesc : s.esc = true) (h0 : r ≠ 0x00) (h1 : r ≠ 0x01) :
    rxStep r s = .next (escapeFault r s) := by
  have illegal : decodeRaw s.esc r = .illegalFollow := by simp only [decodeRaw, hesc, if_true, if_neg h0, if_neg h1]
  simp only [rxStep, illegal]

theorem rxStep_escapePrefix {s : State} (hesc : s.esc = false) : rxStep Config.escByte s = .next (escapeStart s) := by
  have start : decodeRaw s.esc Config.escByte = .escapePrefix := by rw [hesc]; rfl
  simp only [rxStep, start]

theorem rxStep_escAd {s : State} (hesc : s.esc = true) : rxStep 0x00 s = runSymbol .escAd s :=
  rxStep_symbol (by rw [hesc]; rfl)

theorem rxStep_escAe {s : State} (hesc : s.esc = true) : rxStep 0x01 s = runSymbol .escAe s :=
  rxStep_symbol (by rw [hesc]; rfl)

theorem rxStep_marker {s : State} (hesc : s.esc = false) : rxStep Config.frameStart s = runSymbol .frameStart s :=
  rxStep_symbol (by rw [hesc]; rfl)

theorem rxStep_literal {r : Byte} {s : State} (hesc : s.esc = false) (hr : r ≠ Config.escByte) (hr' : r ≠ Config.frameStart) :
    rxStep r s = runSymbol (.literal r) s :=
  rxStep_symbol (by rw [hesc]; exact decodeRaw_literal (literal_wellFormed_iff.mpr ⟨hr, hr'⟩))

/-- Settles O18, test by test. -/
theorem rawByteTestsAreMadeInOrder : Obligations.RawByteTestsAreMadeInOrder := by
  refine fun r s => ⟨?_, ?_, rxStep_illegalFollow, ?_, ?_, fun hesc hstart hprefix => rxStep_literal hesc hprefix hstart⟩
  · rintro hesc rfl
    exact rxStep_escAd hesc
  · rintro hesc rfl
    exact rxStep_escAe hesc
  · rintro hesc rfl
    exact rxStep_marker hesc
  · rintro hesc rfl
    exact rxStep_escapePrefix hesc

/-! ## The step (R110) -/

theorem step_of_app {s : State} (hrun : s.run = .app) : step s = .next s := by
  simp only [step, poll, hrun]

theorem step_of_idle {s : State} (hrun : s.run = .boot) (hrxs : s.rxs = []) : step s = .next s := by
  simp only [step, poll, hrun, hrxs]

section
variable {s : State} {r : Byte} {rest : List Byte} (hrun : s.run = .boot) (hrxs : s.rxs = r :: rest)
include hrun hrxs

theorem step_of_waiting : step s = rxStep r { s with rxs := rest } := by
  simp only [step, poll, hrun, hrxs]

theorem step_of_symbol {i : Instr} (hi : decodeRaw s.esc r = .symbol i) : step s = runSymbol i { s with rxs := rest } :=
  (step_of_waiting hrun hrxs).trans (rxStep_symbol hi)

end

/-- Settles O17, by POLL's three cases. -/
theorem pollConsumesOneByteOrNothing : Obligations.PollConsumesOneByteOrNothing :=
  ⟨fun _ => step_of_app, fun _ => step_of_idle, fun _ _ _ => step_of_waiting⟩

/-- Settles O19: the symbol's own effect, then DISPATCH at the state it leaves. -/
theorem stepRunsTheDecodedInstruction : Obligations.StepRunsTheDecodedInstruction := by
  intro r rest i s hrun hrxs hi
  rw [step_of_symbol hrun hrxs hi]
  refine ⟨runSymbol_of_not_accepts, fun u c ha hu hc => ?_⟩
  have request : decodeRequest u.rxbuf = .ok c := hc
  rw [runSymbol_of_accepts ha hu]
  simp only [dispatch, request]

/-- Settles O9: the marker's own effect, and the step that consumes it. -/
theorem markerRestartsFraming : Obligations.MarkerRestartsFraming := by
  refine ⟨fun s => ?_, fun rest s hrun hesc hrxs => ?_⟩
  · change Host.Outcome.next (marker s) = _
    rw [marker_eq_resync]
    split <;> simp
  · rw [step_of_waiting hrun hrxs, rxStep_marker (s := { s with rxs := rest }) hesc]
    exact runSymbol_of_not_accepts rfl

/-- Settles O14, by the residue, at `exec` and at the step. -/
theorem crcHighByteAcceptsOrDrops : Obligations.CrcHighByteAcceptsOrDrops := by
  refine ⟨fun i d s hi hst => ⟨exec_crcHigh_of_residue_ne_zero hi hst, exec_crcHigh_of_residue_zero hi hst⟩,
    fun r rest i d s hrun hrxs hi hd hst => ?_⟩
  rw [step_of_symbol hrun hrxs hi]
  have accepts := acceptsPacket_iff_residue_zero (s := { s with rxs := rest }) hd hst
  refine ⟨fun hne => ?_, fun hz => ?_⟩
  · exact runSymbol_of_not_accepts (Bool.eq_false_of_not_eq_true (mt accepts.mp hne))
  · have accepted := exec_crcHigh_of_residue_zero (s := { s with rxs := rest }) hd hst hz
    rw [runSymbol_of_accepts (accepts.mpr hz) accepted, afterEscape_rxs]

/-- Settles O15, by the three cases of the follow byte. -/
theorem followByteEndsTheEscape : Obligations.FollowByteEndsTheEscape := by
  intro r rest s hrun hesc hrxs
  rw [step_of_waiting hrun hrxs]
  have pending : ({ s with rxs := rest } : State).esc = true := hesc
  refine ⟨?_, ?_, rxStep_illegalFollow pending⟩
  · rintro rfl
    rw [rxStep_escAd pending, runSymbol_escAd]
  · rintro rfl
    rw [rxStep_escAe pending, runSymbol_escAe]

theorem escapeStart_eq (s : State) :
    escapeStart s = { s with esc := if s.rxst ≠ .header ∨ s.par.escInHeader = true then true else false } := by
  cases h : s.par.escInHeader <;> simp [escapeStart, escapeFlagAfterPrefix, h]

/-- Settles O16: `0xAD` writes the escape flag alone. -/
theorem prefixSetsEscapePending : Obligations.PrefixSetsEscapePending := by
  intro rest s hrun hesc hrxs
  rw [step_of_waiting hrun hrxs, rxStep_escapePrefix (s := { s with rxs := rest }) hesc, escapeStart_eq]

/-! ## Leaving `HEADER` (R116) -/

/-- In `HEADER` a wire symbol that leaves it is the marker (R112, R116). -/
theorem exec_symbol_leaves_header {esc : Bool} {r : Byte} {i : Instr} {s t : State} (hi : decodeRaw esc r = .symbol i)
    (h : exec i s = .next t) (hs : s.rxst = .header) (ht : t.rxst ≠ .header) :
    t.rxst = .length ∧ esc = false ∧ r = Config.frameStart := by
  have discards {d : Byte} (hd : i.decodedByte = some d) : t.rxst = .header := by
    rw [decodedByteInHeaderIsDiscarded i d s hd hs] at h
    rw [← Host.Outcome.next.inj h, afterEscape_rxst, hs]
  obtain ⟨-, rfl | rfl⟩ | ⟨rfl, rfl | rfl⟩ := decodeRaw_symbol_cases hi
  · exact absurd (discards rfl) ht
  · exact absurd (discards rfl) ht
  · obtain ⟨raw, -, -⟩ := decodeRaw_false_symbol hi
    obtain ⟨log, hm⟩ := marker_eq s
    refine ⟨?_, rfl, (List.cons.inj raw).1.symm⟩
    rw [← Host.Outcome.next.inj h, hm]
  · exact absurd (discards rfl) ht

/-- Settles O20, by what a step can do: from `HEADER` no packet is accepted, and only the marker leaves. -/
theorem headerIsLeftOnlyByAMarker : Obligations.HeaderIsLeftOnlyByAMarker := by
  intro s t h hs ht
  obtain ⟨-, rfl⟩ | ⟨-, -, rfl⟩ | ⟨r, rest, -, hrxs, hr⟩ := poll_cases h
  · exact absurd hs ht
  · exact absurd hs ht
  · obtain ⟨-, rfl⟩ | ⟨-, rfl⟩ | ⟨i, hi, hx⟩ := hr
    · exact absurd hs ht
    · exact absurd (escapeFault_rxst ..) ht
    · obtain ⟨u, hu, ⟨-, rfl⟩ | ⟨ha, -⟩⟩ := runSymbol_cases hx
      · obtain ⟨hlen, hesc, rfl⟩ := exec_symbol_leaves_header hi hu hs ht
        exact ⟨hlen, hesc, by rw [hrxs]; rfl⟩
      · exact nomatch hs.symm.trans (rxst_of_acceptsPacket ha)

end Sys2Proof.Machine
end

section
/-! No step faults (`42_framer_rx.md` R118, R123; `43_dispatcher.md` R130): under the invariant the receive index is inside the buffer
and the buffer holds a whole request, so that the one stop left is START_APP's flag check (U13). -/

namespace Sys2Proof.Machine

/-- A next state, or the refusal that only `START_CHECKS_VALID` can give (U13; log entry 12). -/
def RunsOrRefusesFlag (p : Params) (o : Host.Outcome State Fault Refusal) : Prop :=
  Runs o ∨ (p.startChecksValid = true ∧ o = .refused .startFlagInvalid)

theorem RunsOrRefusesFlag.next {p : Params} (t : State) : RunsOrRefusesFlag p (.next t) := .inl ⟨t, rfl⟩

theorem RunsOrRefusesFlag.noFault {p : Params} {o : Host.Outcome State Fault Refusal} (h : RunsOrRefusesFlag p o) :
    NoFault o := by
  obtain ⟨t, rfl⟩ | ⟨-, rfl⟩ := h
  · exact nofun
  · exact nofun

theorem RunsOrRefusesFlag.runs {p : Params} {o : Host.Outcome State Fault Refusal} (h : RunsOrRefusesFlag p o)
    (hp : p.startChecksValid = false) : Runs o :=
  h.resolve_right fun ⟨checks, _⟩ => Bool.false_ne_true (hp.symm.trans checks)

/-! ## The framer -/

/-- A decoded byte meets an index inside the packet buffer (R118). -/
theorem decoded_runs {s : State} (h : s.Inv) (d : Byte) : Runs (decoded d s) := by
  cases hst : s.rxst with
  | header => exact ⟨_, decoded_header hst d⟩
  | length => exact ⟨_, decoded_length hst d⟩
  | data =>
    obtain ⟨-, hmax, hlt⟩ := (positionOk_data hst).1 h.position
    have index : s.rxcnt.toNat < s.rxbuf.length := h.buffer ▸ hlt.trans_le hmax
    exact ⟨_, (decoded_data hst d).trans (dataByte_stores index d)⟩
  | crcLsb => exact ⟨_, decoded_crcLsb hst d⟩
  | crcMsb => exact ⟨_, decoded_crcMsb hst d⟩

/-- The wire symbol that a raw byte completes runs. -/
theorem exec_symbol_runs {r : Byte} {i : Instr} {s : State} (h : s.Inv) (hi : decodeRaw s.esc r = .symbol i) :
    Runs (exec i s) := by
  have ended : ({ s with esc := false } : State).Inv := { h with escape := nofun }
  obtain ⟨-, rfl | rfl⟩ | ⟨-, rfl | rfl⟩ := decodeRaw_symbol_cases hi
  · exact decoded_runs ended _
  · exact decoded_runs ended _
  · exact ⟨_, rfl⟩
  · exact decoded_runs h r

/-! ## The request -/

/-- A buffer as long as the longest request holds a whole record whatever its code (R74, R130). -/
theorem decodeRequest_of_length {p : List Byte} (h : 100 ≤ p.length) : ∃ i, decodeRequest p = .ok i := by
  match p, h with
  | code :: tblpag :: lo :: hi :: rest, h =>
    have data : ¬ rest.length < 96 := by simpa using h
    simp only [decodeRequest, if_neg data]
    split_ifs <;> exact ⟨_, rfl⟩

theorem whenConnected_runsOrRefusesFlag {code : Byte} {s : State} {o : Host.Outcome State Fault Refusal}
    (h : RunsOrRefusesFlag s.par o) : RunsOrRefusesFlag s.par (whenConnected code s o) := by
  unfold whenConnected
  split
  · exact h
  · exact .next _

theorem execStartApp_runsOrRefusesFlag (s : State) : RunsOrRefusesFlag s.par (execStartApp s) := by
  refine whenConnected_runsOrRefusesFlag ?_
  split
  · rename_i invalid
    exact .inr ⟨(Bool.and_eq_true_iff.mp invalid).1, rfl⟩
  · exact .next _

/-- Every request answers, but for the flag check of START_APP (R130 to R159). -/
theorem exec_request_runsOrRefusesFlag {i : Instr} (hi : i.layer = .request) (s : State) :
    RunsOrRefusesFlag s.par (exec i s) := by
  cases i with
  | handshake => exact .next _
  | startApp => exact execStartApp_runsOrRefusesFlag s
  | readRow | erasePm | erasePmForce | programPm | programPmForce | eraseEe | eraseEeForce | programEe | programEeForce
  | noRegion => exact whenConnected_runsOrRefusesFlag (.next _)
  | handshakeRsp | readRowRsp | startAppRsp | modifyRsp | frameStart | escAd | escAe | literal | frame => cases hi

/-- `RX_MAXLEN` is at least the longest request (R6). -/
theorem rxMaxlen_ge {p : Params} (h : p.legal = true) : 100 ≤ p.rxMaxlen := by
  simp only [Params.legal, Bool.and_eq_true, decide_eq_true_eq] at h
  obtain ⟨⟨⟨⟨⟨⟨⟨⟨low, -⟩, -⟩, -⟩, -⟩, -⟩, -⟩, -⟩, -⟩ := h
  exact low

theorem dispatch_runsOrRefusesFlag {s : State} (h : s.Inv) : RunsOrRefusesFlag s.par (dispatch s) := by
  obtain ⟨i, hi⟩ := decodeRequest_of_length (p := s.rxbuf) (h.buffer ▸ rxMaxlen_ge h.legal)
  simp only [dispatch, hi]
  exact exec_request_runsOrRefusesFlag (decodeRequest_layer hi) s

/-! ## The step -/

theorem runSymbol_runsOrRefusesFlag {r : Byte} {i : Instr} {s : State} (h : s.Inv) (hi : decodeRaw s.esc r = .symbol i) :
    RunsOrRefusesFlag s.par (runSymbol i s) := by
  obtain ⟨u, hu⟩ := exec_symbol_runs h hi
  cases ha : acceptsPacket i s with
  | false =>
    rw [runSymbol_of_not_accepts ha, hu]
    exact .next u
  | true =>
    rw [runSymbol_of_accepts ha hu, ← (exec_symbol_framerEffect hi hu).par]
    exact dispatch_runsOrRefusesFlag (exec_symbol_keeps_inv h hi hu)

theorem step_runsOrRefusesFlag {s : State} (h : s.Inv) : RunsOrRefusesFlag s.par (step s) := by
  cases hrun : s.run with
  | app => exact step_of_app hrun ▸ .next s
  | boot =>
    cases hrxs : s.rxs with
    | nil => exact step_of_idle hrun hrxs ▸ .next s
    | cons r rest =>
      have taken : ({ s with rxs := rest } : State).Inv := { h with }
      rw [step_of_waiting hrun hrxs, rxStep]
      split
      · rename_i i hi
        exact runSymbol_runsOrRefusesFlag taken hi
      · exact .next _
      · exact .next _

/-- Settles O46: a step answers, but for the flag check that `START_CHECKS_VALID` asks. -/
theorem stepNeverFaults : Obligations.StepNeverFaults :=
  fun _ h => ⟨(step_runsOrRefusesFlag h).noFault, (step_runsOrRefusesFlag h).runs⟩

end Sys2Proof.Machine
end

section
/-! Whole frames at the receiver (`42_framer_rx.md` R123): the raw bytes of one sent frame, byte by byte, with and without an escape
pending before them. -/

namespace Sys2Proof.Machine

/-! ## Runs over waiting bytes -/

theorem run_one (M : Host.Core) (s : M.State) : M.run 1 s = M.step s := by
  simp only [Host.Core.run]
  cases M.step s <;> rfl

theorem run_add_of_next {M : Host.Core} {m n : Nat} {s t : M.State} (h : M.run m s = .next t) :
    M.run (m + n) s = M.run n t := by
  induction m generalizing s with
  | zero => rw [Nat.zero_add, Host.Outcome.next.inj h]
  | succ m ih =>
    rw [Nat.succ_add]
    simp only [Host.Core.run] at h ⊢
    cases hs : M.step s with
    | next u =>
      rw [hs] at h
      exact ih h
    | fault | refused =>
      rw [hs] at h
      cases h

/-- As many steps as `raw` has bytes, from `s` with these bytes waiting and `rest` behind them. -/
def feed (raw rest : List Byte) (s : State) : Host.Outcome State Fault Refusal :=
  Host.Core.run Sys2Proof.core raw.length { s with rxs := raw ++ rest }

theorem run_eq_feed {s : State} {raw rest : List Byte} (h : s.rxs = raw ++ rest) :
    (Host.Core.run Sys2Proof.core raw.length s : Host.Outcome State Fault Refusal) = feed raw rest s := by
  rw [feed, ← h]

theorem feed_append {raw raw' rest : List Byte} {s u : State}
    (h : feed raw (raw' ++ rest) s = .next { u with rxs := raw' ++ rest }) :
    feed (raw ++ raw') rest s = feed raw' rest u := by
  unfold feed
  rw [List.length_append, List.append_assoc]
  exact run_add_of_next h

theorem feed_singleton {s : State} (hrun : s.run = .boot) (r : Byte) (rest : List Byte) :
    feed [r] rest s = rxStep r { s with rxs := rest } :=
  (run_one Sys2Proof.core _).trans (step_of_waiting (s := { s with rxs := r :: rest }) hrun rfl)

/-! ## One escaped byte (R61, R113 to R115) -/

theorem esc_eta {s : State} (h : s.esc = false) : { s with esc := false } = s := by
  rw [← h]

section
variable {s : State} (hrun : s.run = .boot) (hesc : s.esc = false)
include hrun hesc

/-- A pair is run as its byte. In `HEADER`, where `0xAD` may open no escape, the byte and the follow byte are both discarded
(R114, R116). -/
theorem feed_pair {x d : Byte} (hx : x.toNat < 0xAD)
    (pair : ∀ u : State, u.esc = true → rxStep x u = runSymbol (.literal d) { u with esc := false }) (rest : List Byte) :
    feed [Config.escByte, x] rest s = runSymbol (.literal d) { s with rxs := rest } := by
  have opened : feed [Config.escByte] ([x] ++ rest) s = .next { escapeStart s with rxs := [x] ++ rest } := by
    rw [feed_singleton hrun, rxStep_escapePrefix (s := { s with rxs := [x] ++ rest }) hesc]
    rfl
  rw [← List.singleton_append, feed_append opened, feed_singleton (s := escapeStart s) hrun]
  cases flag : escapeFlagAfterPrefix s with
  | true =>
    rw [pair { escapeStart s with rxs := rest } flag]
    exact congrArg (runSymbol _) (esc_eta (s := { s with rxs := rest }) hesc)
  | false =>
    have header : s.rxst = .header := by simp_all [escapeFlagAfterPrefix]
    have unchanged : escapeStart s = s := by rw [escapeStart, flag, esc_eta hesc]
    have discarded (b : Byte) : runSymbol (.literal b) { s with rxs := rest } = .next { s with rxs := rest } := by
      rw [runSymbol_literal (by simp [header]), decoded_header (s := { s with rxs := rest }) header]
    have follow := rxStep_literal (s := { s with rxs := rest }) hesc (r := x) (by bv_omega) (by bv_omega)
    rw [unchanged, follow, discarded, discarded]

/-- The escape code of a byte is run as that byte, in every receive state. -/
theorem feed_escEncode (d : Byte) (rest : List Byte) :
    feed (escEncode d) rest s = runSymbol (.literal d) { s with rxs := rest } := by
  obtain ⟨rfl, code⟩ | ⟨rfl, code⟩ | ⟨hprefix, hstart, code⟩ := escEncode_cases d <;> rw [code]
  · exact feed_pair hrun hesc (by decide) (fun u hu => (rxStep_escAd hu).trans (runSymbol_escAd u)) rest
  · exact feed_pair hrun hesc (by decide) (fun u hu => (rxStep_escAe hu).trans (runSymbol_escAe u)) rest
  · rw [feed_singleton hrun]
    exact rxStep_literal (s := { s with rxs := rest }) hesc hprefix hstart

/-- Outside `CRC_MSB` that is the framer's effect alone. -/
theorem feed_escEncode_decoded (hst : s.rxst ≠ .crcMsb) (d : Byte) (rest : List Byte) :
    feed (escEncode d) rest s = decoded d { s with rxs := rest } := by
  rw [feed_escEncode hrun hesc, runSymbol_literal (s := { s with rxs := rest }) hst]

/-- In `HEADER` escaped bytes are consumed and nothing else happens (R116). -/
theorem feed_escaped_in_header (hst : s.rxst = .header) (bytes rest : List Byte) :
    feed (bytes.flatMap escEncode) rest s = .next { s with rxs := rest } := by
  induction bytes with
  | nil => rfl
  | cons d bytes ih =>
    have first : feed (escEncode d) (bytes.flatMap escEncode ++ rest) s =
        .next { s with rxs := bytes.flatMap escEncode ++ rest } := by
      rw [feed_escEncode_decoded hrun hesc (by simp [hst])]
      exact decoded_header (s := { s with rxs := bytes.flatMap escEncode ++ rest }) hst d
    rw [List.flatMap_cons, feed_append first, ih]

end

/-- Settles O22: the marker is the illegal follow byte, and what comes after it is escaped bytes in `HEADER`. -/
theorem frameAfterStrayPrefixIsLost : Obligations.FrameAfterStrayPrefixIsLost := by
  intro s p rest hrun hesc _ _ hrxs
  have swallowed (raw : List Byte) :
      feed [Config.frameStart] raw s = .next { escapeFault Config.frameStart s with rxs := raw } := by
    rw [feed_singleton hrun, rxStep_illegalFollow (s := { s with rxs := raw }) hesc (by decide) (by decide)]
    rfl
  rw [run_eq_feed hrxs, frameBytes_eq, ← List.singleton_append, feed_append (swallowed _)]
  exact feed_escaped_in_header (s := escapeFault Config.frameStart s) hrun rfl rfl _ rest

/-! ## The payload (R117, R118) -/

/-- The state with a length byte `n` accepted and the payload bytes `q` received (R117, R118). -/
def State.midFrame (n : Byte) (q : List Byte) (s : State) : State := { s with
  rxst := if q.length = n.toNat then .crcLsb else .data
  rxlen := n
  rxcnt := BitVec.ofNat 8 q.length
  rxbuf := q ++ s.rxbuf.drop q.length
  rxcrc := crc16 q }

theorem lengthByte_midFrame {n : Byte} {s : State} (h0 : n ≠ 0) (hmax : n.toNat ≤ s.par.rxMaxlen) :
    lengthByte n s = s.midFrame n [] := by
  have more : ¬ ([] : List Byte).length = n.toNat := fun h => h0 (BitVec.eq_of_toNat_eq h.symm)
  rw [lengthByte_accepted h0 hmax, State.midFrame, if_neg more]
  rfl

/-- A byte written behind the received ones lengthens them. -/
theorem set_received {q buf : List Byte} (h : q.length < buf.length) (d : Byte) :
    (q ++ buf.drop q.length).set q.length d = q ++ [d] ++ buf.drop (q ++ [d]).length := by
  rw [List.set_append_right _ _ le_rfl, Nat.sub_self, List.drop_eq_getElem_cons h, List.set_cons_zero, List.length_append,
    List.append_assoc]
  rfl

theorem decoded_midFrame {n d : Byte} {q : List Byte} {s : State} (hq : q.length < n.toNat) (hn : n.toNat ≤ s.rxbuf.length) :
    decoded d (s.midFrame n q) = .next (s.midFrame n (q ++ [d])) := by
  have count : (BitVec.ofNat 8 q.length).toNat = q.length := Nat.mod_eq_of_lt (by omega)
  have next : BitVec.ofNat 8 q.length + 1 = BitVec.ofNat 8 (q ++ [d]).length := by simp [BitVec.ofNat_add]
  have last : BitVec.ofNat 8 (q ++ [d]).length = n ↔ (q ++ [d]).length = n.toNat := by
    rw [← BitVec.toNat_inj, BitVec.toNat_ofNat, Nat.mod_eq_of_lt (by simp; omega)]
  have mid : (s.midFrame n q).rxst = .data := if_neg (by omega)
  have index : (s.midFrame n q).rxcnt.toNat < (s.midFrame n q).rxbuf.length := by
    simp only [State.midFrame, count, List.length_append, List.length_drop]
    omega
  rw [decoded_data mid, dataByte_stores index, mid]
  simp only [State.midFrame, State.storeByte, count, set_received (hq.trans_le hn), next, last, crc16, List.foldl_append,
    List.foldl_cons, List.foldl_nil]

/-- The payload's raw bytes fill the buffer from its head. -/
theorem feed_payload {s : State} {n : Byte} {q : List Byte} (hrun : s.run = .boot) (hesc : s.esc = false)
    (hq : q.length ≤ n.toNat) (hn : n.toNat ≤ s.rxbuf.length) (rest : List Byte) :
    feed (q.flatMap escEncode) rest (s.midFrame n []) = .next { s.midFrame n q with rxs := rest } := by
  induction q using List.reverseRecOn generalizing rest with
  | nil => rfl
  | append_singleton q d ih =>
    have more : q.length < n.toNat := by simpa using hq
    have mid : (s.midFrame n q).rxst ≠ .crcMsb := by simp [State.midFrame, more.ne]
    rw [List.flatMap_append, List.flatMap_singleton, feed_append (ih more.le _),
      feed_escEncode_decoded (s := s.midFrame n q) hrun hesc mid]
    exact decoded_midFrame (s := { s with rxs := rest }) more hn

/-! ## The frame (R112 to R121) -/

@[simp] theorem marker_run (s : State) : (marker s).run = s.run := by rw [marker_eq_resync]
@[simp] theorem marker_esc (s : State) : (marker s).esc = s.esc := by rw [marker_eq_resync]
@[simp] theorem marker_rxst (s : State) : (marker s).rxst = .length := by rw [marker_eq_resync]
@[simp] theorem marker_rxbuf (s : State) : (marker s).rxbuf = s.rxbuf := by rw [marker_eq_resync]
@[simp] theorem marker_par (s : State) : (marker s).par = s.par := by rw [marker_eq_resync]

theorem feed_marker {s : State} (hrun : s.run = .boot) (hesc : s.esc = false) (rest : List Byte) :
    feed [Config.frameStart] rest s = .next { marker s with rxs := rest } := by
  rw [feed_singleton hrun, rxStep_marker (s := { s with rxs := rest }) hesc]
  refine (runSymbol_of_not_accepts rfl).trans (congrArg Host.Outcome.next ?_)
  rw [marker_eq_resync, marker_eq_resync]

/-- The two CRC bytes of the payload end the accumulator at zero, so the packet is delivered (R119 to R121, R93). -/
theorem feed_crcField {s : State} {n : Byte} {p : List Byte} (hrun : s.run = .boot) (hesc : s.esc = false)
    (hp : p.length = n.toNat) (rest : List Byte) :
    feed ((bytesOfU16 (crc16 p)).flatMap escEncode) rest (s.midFrame n p) =
      dispatch { s.midFrame n p with rxst := .header, rxcrc := 0, rxs := rest } := by
  have full : (s.midFrame n p).rxst = .crcLsb := if_pos hp
  have residue : crcUpdate (crcUpdate (crc16 p) ((crc16 p).extractLsb' 0 8)) ((crc16 p).extractLsb' 8 8) = 0 :=
    crcUpdate_crcUpdate_eq_zero_iff.mpr (u16OfBytes_extract _)
  have low (raw : List Byte) : feed (escEncode ((crc16 p).extractLsb' 0 8)) raw (s.midFrame n p) =
      .next { crcLow ((crc16 p).extractLsb' 0 8) (s.midFrame n p) with rxs := raw } := by
    rw [feed_escEncode_decoded (s := s.midFrame n p) hrun hesc (by simp [full])]
    exact decoded_crcLsb (s := { s.midFrame n p with rxs := raw }) full _
  rw [bytesOfU16, List.flatMap_cons, List.flatMap_singleton, feed_append (low _),
    feed_escEncode (s := crcLow ((crc16 p).extractLsb' 0 8) (s.midFrame n p)) hrun hesc]
  exact runSymbol_of_accepts ((acceptsPacket_iff_residue_zero rfl rfl).mpr residue) (exec_crcHigh_of_residue_zero rfl rfl residue)

theorem feed_lengthByte {s : State} {n : Byte} (hrun : s.run = .boot) (hesc : s.esc = false) (hst : s.rxst = .length)
    (h0 : n ≠ 0) (hmax : n.toNat ≤ s.par.rxMaxlen) (rest : List Byte) :
    feed (escEncode n) rest s = .next { s.midFrame n [] with rxs := rest } := by
  rw [feed_escEncode_decoded hrun hesc (by simp [hst]), decoded_length (s := { s with rxs := rest }) hst]
  exact congrArg Host.Outcome.next (lengthByte_midFrame (s := { s with rxs := rest }) h0 hmax)

/-- What follows a marker in a frame is delivered from `LENGTH`: length byte, payload, CRC field. -/
theorem feed_frameBody {s : State} {p : List Byte} (hrun : s.run = .boot) (hesc : s.esc = false) (hst : s.rxst = .length)
    (h1 : 1 ≤ p.length) (h128 : p.length ≤ 128) (hmax : p.length ≤ s.par.rxMaxlen) (hbuf : p.length ≤ s.rxbuf.length)
    (rest : List Byte) :
    feed (escEncode (BitVec.ofNat 8 p.length) ++ (p.flatMap escEncode ++ (bytesOfU16 (crc16 p)).flatMap escEncode)) rest s =
      dispatch { s.midFrame (BitVec.ofNat 8 p.length) p with rxst := .header, rxcrc := 0, rxs := rest } := by
  have n : (BitVec.ofNat 8 p.length).toNat = p.length := Nat.mod_eq_of_lt (by omega)
  have nonzero : BitVec.ofNat 8 p.length ≠ 0 := fun h => by simp [h] at n; omega
  rw [feed_append (feed_lengthByte hrun hesc hst nonzero (n.trans_le hmax) _),
    feed_append (feed_payload hrun hesc n.ge (n.trans_le hbuf) _), feed_crcField hrun hesc n.symm]

/-- Settles O21: the marker opens `LENGTH` from any state, and what follows it is delivered. -/
theorem wellFormedFrameIsDelivered : Obligations.WellFormedFrameIsDelivered := by
  intro s p rest hrun hesc h1 h128 hmax hbuf hrxs
  rw [run_eq_feed hrxs, frameBytes, List.append_assoc, ← List.singleton_append, feed_append (feed_marker hrun hesc _)]
  have body := feed_frameBody (s := marker s) (p := p) (by simpa using hrun) (by simpa using hesc) (by simp) h1 h128
    (by simpa using hmax) (by simpa [hbuf] using hmax) rest
  rw [marker_eq_resync] at body ⊢
  exact body

end Sys2Proof.Machine
end

section
/-! The dispatcher (`43_dispatcher.md` R130 to R159): the gate before a handshake, the order of the tests, and what each request answers
once the session is open. -/

namespace Sys2Proof.Machine

/-- Settles O49: without an accepted packet a step is the framer's effect alone. -/
theorem nothingHappensWithoutAnAcceptedPacket : Obligations.NothingHappensWithoutAnAcceptedPacket := by
  intro s t h hidle
  obtain ⟨-, framer⟩ | ⟨haccepts, -⟩ := step_cases_accepting h
  · exact ⟨framer.txs, framer.txcrc, framer.pm, framer.ee, framer.cfg, framer.hs, framer.run, framer.par⟩
  · exact absurd (hidle.symm.trans haccepts) Bool.false_ne_true

/-! ## Before a handshake (R131) -/

/-- Settles O24: every request but HANDSHAKE stands behind the gate, under its own code byte. -/
theorem requestsAreIgnoredBeforeHandshake : Obligations.RequestsAreIgnoredBeforeHandshake := by
  intro i s hlayer hne hs
  cases i with
  | handshake => exact absurd rfl hne
  | readRow => exact ⟨0x01, rfl, whenConnected_ignored hs⟩
  | startApp => exact ⟨0x03, rfl, whenConnected_ignored hs⟩
  | erasePm code | erasePmForce code | programPm code | programPmForce code | eraseEe code | eraseEeForce code
  | programEe code | programEeForce code | noRegion code => exact ⟨code, rfl, whenConnected_ignored hs⟩
  | handshakeRsp | readRowRsp | startAppRsp | modifyRsp | frameStart | escAd | escAe | literal | frame => cases hlayer

/-! ## The order of the tests (R130, R150) -/

/-- A modify command keeps the code byte it was decoded from (R74). -/
theorem encode_decodeModify (code tblpag : Byte) (offset : Word16) (data : List Byte) :
    encode (decodeModify code tblpag offset data) = modifyRecord code tblpag offset data := by
  unfold decodeModify
  split_ifs
  · split <;> rfl
  · split <;> rfl
  · rfl

/-- A whole modify record at the head of the packet buffer, under any code but the three fixed ones (R74, R130). -/
theorem decodeRequest_modify {code tblpag lo hi : Byte} {rest : List Byte} (hcode : fixedCommandCode code = false)
    (hrest : 96 ≤ rest.length) : decodeRequest (code :: tblpag :: lo :: hi :: rest) =
      .ok (decodeModify code tblpag (u16OfBytes lo hi) (rest.take 96)) := by
  obtain ⟨handshake, readRow, startApp⟩ := fixedCommandCode_eq_false_iff.mp hcode
  simp only [decodeRequest, if_neg handshake, if_neg readRow, if_neg startApp, if_neg (Nat.not_lt.mpr hrest)]

/-- In the Connected mode the code's bits choose the engine call: the region by bit 3 before bit 4, the flags by bits 1 and 0 (R150). -/
theorem exec_decodeModify_connected (code tblpag : Byte) (offset : Word16) (data : List Byte) {s : State} (h : s.hs = true) :
    exec (decodeModify code tblpag offset data) s =
      if code.getLsbD 3 = true then
        .next (modifyPm code (flashAddr tblpag offset) (code.getLsbD 1) (code.getLsbD 0) data s)
      else if code.getLsbD 4 = true then
        .next (modifyEe code (flashAddr tblpag offset) (code.getLsbD 1) (code.getLsbD 0) data s)
      else exec (.noRegion code tblpag offset data) s := by
  unfold decodeModify
  split_ifs
  · cases code.getLsbD 1 <;> cases code.getLsbD 0 <;> exact whenConnected_hs h
  · cases code.getLsbD 1 <;> cases code.getLsbD 0 <;> exact whenConnected_hs h
  · rfl

/-- A request shows the code byte it was decoded from (R66). -/
theorem encode_head?_of_decodeRequest {p : List Byte} {i : Instr} (h : decodeRequest p = .ok i) :
    (encode i).head? = p.head? := by
  unfold decodeRequest at h
  split at h
  · cases h
  · rename_i code body
    split_ifs at h with h0 h1 h3
    · cases h; simp [encode, h0]
    · split at h <;> cases h
      simp [encode, h1]
    · cases h; simp [encode, h3]
    · split at h
      · split_ifs at h
        cases h
        rw [encode_decodeModify]
        rfl
      · cases h

theorem dispatch_of_decodeRequest {s : State} {i : Instr} (h : decodeRequest s.rxbuf = .ok i) : dispatch s = exec i s := by
  simp only [dispatch, h]

/-- Before a handshake an accepted packet with a whole record and a code other than `0x00` is ignored (R131). -/
theorem dispatch_ignored {s : State} {code : Byte} {body : List Byte} (hbuf : s.rxbuf = code :: body)
    (hlength : 100 ≤ s.rxbuf.length) (hcode : code ≠ 0x00) (hs : s.hs = false) :
    dispatch s = .next { s with evlog := s.evlog ++ [.ignoredBeforeHandshake code] } := by
  obtain ⟨i, hi⟩ := decodeRequest_of_length hlength
  have notHandshake : i ≠ .handshake := fun he => hcode (by simpa [hbuf] using (decodeRequest_handshake_iff hi).mp he)
  obtain ⟨code', hcode', hexec⟩ := requestsAreIgnoredBeforeHandshake i s (decodeRequest_layer hi) notHandshake hs
  have same : code' = code := by simpa [hcode', hbuf] using encode_head?_of_decodeRequest hi
  rw [dispatch_of_decodeRequest hi, hexec, same]

/-- Settles O23: the buffer holds a whole record, and its code byte decides, test by test. -/
theorem dispatchMakesItsTestsInOrder : Obligations.DispatchMakesItsTestsInOrder := by
  intro u hlength
  obtain ⟨code, tblpag, lo, hi, rest, hbuf, hrest⟩ :
      ∃ code tblpag lo hi rest, u.rxbuf = code :: tblpag :: lo :: hi :: rest ∧ 96 ≤ rest.length := by
    match hbuf : u.rxbuf, hlength with
    | code :: tblpag :: lo :: hi :: rest, hlength => exact ⟨code, tblpag, lo, hi, rest, rfl, by simpa using hlength⟩
  simp only [hbuf, List.getD_cons_zero, List.getD_cons_succ, List.drop_succ_cons, List.drop_zero]
  split_ifs with handshake unconnected readRow startApp pm ee
  · exact dispatch_of_decodeRequest (by rw [hbuf, handshake]; rfl)
  · rw [← hbuf]
    exact dispatch_ignored hbuf hlength handshake unconnected
  · exact dispatch_of_decodeRequest (by rw [hbuf, readRow]; rfl)
  · exact dispatch_of_decodeRequest (by rw [hbuf, startApp]; rfl)
  all_goals
    have modify := decodeRequest_modify (tblpag := tblpag) (lo := lo) (hi := hi)
      (fixedCommandCode_eq_false_iff.mpr ⟨handshake, readRow, startApp⟩) hrest
    rw [dispatch_of_decodeRequest (hbuf ▸ modify), exec_decodeModify_connected _ _ _ _ (by simpa using unconnected)]
  · rw [if_pos pm]
  · rw [if_neg pm, if_pos ee]
  · rw [if_neg pm, if_neg ee]

/-! ## The fixed commands (R132, R136, R146) -/

/-- Settles O25: HANDSHAKE stands before the gate. -/
theorem handshakeOpensTheGateAndAnswers : Obligations.HandshakeOpensTheGateAndAnswers := by
  intro s payload
  refine ⟨?answer, fun hsignature => ?length⟩
  case answer =>
    have record : handshakePayload s.par = payload := by
      simp [handshakePayload, payload, bytesOfU16, bytesOfU32]
    rw [← record]
    rfl
  case length => simp [payload, hsignature]

/-- Settles O26: the 32 words of one row read, each that the rules state being the array's. -/
theorem readRowAnswersTheRow : Obligations.ReadRowAnswersTheRow := by
  intro tblpag offset s hs
  refine ⟨rowRead 32 s.pmView (flashAddr tblpag offset) s.pm, s.pm.draws + 1, rowRead_length .., fun i hi hstated => ?_,
    execReadRow_connected tblpag offset hs⟩
  simp [rowRead, hi, rowWord_stated (v := s.pmView) hstated]

/-- START_APP in the Connected mode: the flag check, then the acknowledgement and the application (R146). -/
theorem exec_startApp_connected {s : State} (h : s.hs = true) : exec .startApp s =
    if s.par.startChecksValid && flagInvalid (validFlagWord s) then .refused .startFlagInvalid
    else .next { (flagTested s).send [0xFC] with run := .app } := whenConnected_hs h

/-- Settles O28: no flag check, so the acknowledgement goes out and `RUN` is left at `APP`, where POLL does nothing. -/
theorem startAppAcknowledgesThenStops : Obligations.StartAppAcknowledgesThenStops := by
  intro s hs hchecks
  refine ⟨_, ?_, rfl, by decide, step_of_app rfl⟩
  rw [exec_startApp_connected hs, hchecks, flagTested, hchecks]
  rfl

/-- Settles O29, by the flag word. -/
theorem startAppWithFlagCheck : Obligations.StartAppWithFlagCheck := by
  intro s hs hchecks
  rw [exec_startApp_connected hs, hchecks, flagTested, hchecks, Bool.true_and]
  refine ⟨fun hvalid => ⟨s.pm.draws + 1, ?_⟩, fun hinvalid => ?_⟩
  · exact if_neg (fun hflag => hvalid (of_decide_eq_true hflag))
  · exact if_pos (decide_eq_true hinvalid)

/-! ## The modify commands (R150 to R159) -/

/-- Settles O30: one engine call each behind the gate, and its status in the response. -/
theorem programMemoryCommandsRunTheEngine : Obligations.ProgramMemoryCommandsRunTheEngine := by
  intro code tblpag offset data s hs answer
  have called : ∀ program force,
      modifyPm code (flashAddr tblpag offset) program force data s = answer program force := fun _ _ => rfl
  simp only [← called]
  exact ⟨whenConnected_hs hs, whenConnected_hs hs, whenConnected_hs hs, whenConnected_hs hs⟩

/-- Settles O31: one engine call each behind the gate, and its status in the response. -/
theorem dataEepromCommandsRunTheEngine : Obligations.DataEepromCommandsRunTheEngine := by
  intro code tblpag offset data s hs answer
  have called : ∀ program force,
      modifyEe code (flashAddr tblpag offset) program force data s = answer program force := fun _ _ => rfl
  simp only [← called]
  exact ⟨whenConnected_hs hs, whenConnected_hs hs, whenConnected_hs hs, whenConnected_hs hs⟩

/-- Settles O32, by the policy. -/
theorem noRegionFollowsItsPolicy : Obligations.NoRegionFollowsItsPolicy := by
  intro code tblpag offset data s hs
  refine ⟨fun policy => (whenConnected_hs hs).trans ?_, fun policy => (whenConnected_hs hs).trans ?_⟩
  · rw [policy]
  · rw [policy]
    rfl

end Sys2Proof.Machine
end

section
/-! What a modify command does to the words of flash (`43_dispatcher.md` R150, R153; `44_flash_modify_engine.md` R162, R169, R171): the
words outside the rows of its address stay, and a row that was programmed once is not cycled again. -/

namespace Sys2Proof.Machine

/-! ## The frame of a modify command (R150, R169) -/

/-- An engine call leaves every word outside the rows a cycle may change as it was: it is a call that is cut after its last cycle. -/
theorem engineRun_other {w : Nat} (c : ModifyCall w) {f : Flash w} (h : f.cells.wf = true) {a : Nat}
    (ha : a ∉ cycleAddrs c.span c.units c.addr) : (engineRun c f).flash.cells.read a = f.cells.read a :=
  (engineCut_other c .beforeResponse h).2 a ha

/-- A program-memory command answers the gate's event or one engine call (R131, R150). -/
theorem exec_pmCommand_cases {code tblpag : Byte} {offset : Word16} {data : List Byte} {i : Instr} {s t : State}
    (hi : i ∈ [Instr.erasePm code tblpag offset data, .erasePmForce code tblpag offset data,
      .programPm code tblpag offset data, .programPmForce code tblpag offset data]) (h : exec i s = .next t) :
    t = s.raise (.ignoredBeforeHandshake code) ∨
    ∃ program force, t = modifyPm code (flashAddr tblpag offset) program force data s := by
  simp only [List.mem_cons, List.not_mem_nil, or_false] at hi
  rcases hi with rfl | rfl | rfl | rfl
  all_goals
    obtain ⟨-, rfl⟩ | ⟨-, called⟩ := whenConnected_cases h
    · exact .inl rfl
    · exact .inr ⟨_, _, (Host.Outcome.next.inj called).symm⟩

/-- A data-EEPROM command answers the gate's event or one engine call (R131, R150). -/
theorem exec_eeCommand_cases {code tblpag : Byte} {offset : Word16} {data : List Byte} {i : Instr} {s t : State}
    (hi : i ∈ [Instr.eraseEe code tblpag offset data, .eraseEeForce code tblpag offset data,
      .programEe code tblpag offset data, .programEeForce code tblpag offset data]) (h : exec i s = .next t) :
    t = s.raise (.ignoredBeforeHandshake code) ∨
    ∃ program force, t = modifyEe code (flashAddr tblpag offset) program force data s := by
  simp only [List.mem_cons, List.not_mem_nil, or_false] at hi
  rcases hi with rfl | rfl | rfl | rfl
  all_goals
    obtain ⟨-, rfl⟩ | ⟨-, called⟩ := whenConnected_cases h
    · exact .inl rfl
    · exact .inr ⟨_, _, (Host.Outcome.next.inj called).symm⟩

/-- The words of a row of the region, in order (R49). -/
theorem cycleAddrs_of_rowStated {span : Span} {units : Nat} {addr : FlashAddr} (h : rowStated span units addr = true) :
    cycleAddrs span units addr = (List.range (units / 2)).map fun i => addr.toNat + 2 * i := by
  simp [cycleAddrs, cycleRows, h]

/-- Settles O41: the gate's event changes no word, an engine call no word outside the rows of its address. -/
theorem modifyCommandsLeaveOtherWordsAlone : Obligations.ModifyCommandsLeaveOtherWordsAlone := by
  refine ⟨fun code tblpag offset data i s t hwf hi h => ?pm, fun code tblpag offset data i s t hwf hi h => ?ee,
    fun span units addr a hrow => ?row⟩
  case pm =>
    obtain rfl | ⟨program, force, rfl⟩ := exec_pmCommand_cases hi h
    · exact ⟨fun _ _ => rfl, rfl, rfl, rfl, rfl, rfl, rfl, rfl, rfl, rfl, rfl, rfl, rfl⟩
    · have words := fun a => engineRun_other (pmCall s (flashAddr tblpag offset) program force data) hwf (a := a)
      exact ⟨words, rfl, rfl, rfl, rfl, rfl, rfl, rfl, rfl, rfl, rfl, rfl, rfl⟩
  case ee =>
    obtain rfl | ⟨program, force, rfl⟩ := exec_eeCommand_cases hi h
    · exact ⟨fun _ _ => rfl, rfl, rfl, rfl, rfl, rfl, rfl, rfl, rfl, rfl, rfl, rfl, rfl⟩
    · have words := fun a => engineRun_other (eeCall s (flashAddr tblpag offset) program force data) hwf (a := a)
      exact ⟨words, rfl, rfl, rfl, rfl, rfl, rfl, rfl, rfl, rfl, rfl, rfl, rfl⟩
  case row =>
    rw [cycleAddrs_of_rowStated hrow]
    simp [eq_comm]

/-! ## What a good cycle leaves in a row (R169) -/

/-- A list of writes at distinct addresses leaves each of its words (R44). -/
theorem read_writeAll_of_mem {w : Nat} {cells : List (Nat × BitVec w)} (hnodup : (cells.map Prod.fst).Nodup) {m : Memory w}
    (hm : m.wf = true) {a : Nat} {v : BitVec w} (hmem : (a, v) ∈ cells) : (m.writeAll cells).read a = v := by
  induction cells generalizing m with
  | nil => cases hmem
  | cons c rest ih =>
    rw [List.map_cons, List.nodup_cons] at hnodup
    obtain ⟨hfresh, hrest⟩ := hnodup
    obtain rfl | hlater := List.mem_cons.mp hmem
    · have unwritten : ∀ d ∈ rest, d.1 ≠ a := fun d hd he => hfresh (List.mem_map.mpr ⟨d, hd, he⟩)
      exact (read_writeAll_other rest (write_wf v hm) unwritten).trans (read_write_same v hm)
    · exact ih hrest (write_wf c.2 hm) hlater

/-- The rows of both regions have an even number of address units (R45, R46). -/
theorem units_even {w : Nat} (c : ModifyCall w) : c.units % 2 = 0 := by
  unfold ModifyCall.units View.units
  split <;> rfl

section
variable {w : Nat} {c : ModifyCall w} (hrow : rowStated c.span c.units c.addr = true)
include hrow

/-- The word that a cycle leaves at place `i` of a row of the region (R169). -/
theorem flashCycle_read_row (asked : List (BitVec w)) {f : Flash w} (hwf : f.cells.wf = true) {i : Nat} (hi : i < c.units / 2) :
    (flashCycle c.span c.units c.addr asked f).cells.read (c.addr.toNat + 2 * i) =
      cycleLeaves c.span c.units c.addr asked f i := by
  have inside : inSpan c.span (c.addr.toNat + 2 * i) = true := by
    obtain ⟨stated, place⟩ := rowStated_word (units_even c) hrow hi
    exact place ▸ inSpan_of_hasWord (Bool.and_eq_true_iff.mp stated).2
  refine read_writeAll_of_mem ?distinct hwf ?listed
  case distinct =>
    rw [List.map_map]
    refine (List.filter_sublist.map _).nodup (l₂ := (cycleAddrs c.span c.units c.addr).zipIdx.map Prod.fst) ?_
    rw [List.zipIdx_map_fst, cycleAddrs_of_rowStated hrow]
    exact List.nodup_range.map fun _ _ h => by omega
  case listed =>
    refine List.mem_map.mpr ⟨(c.addr.toNat + 2 * i, i), List.mem_filter.mpr ⟨?_, inside⟩, rfl⟩
    rw [cycleAddrs_of_rowStated hrow, List.mem_zipIdx_iff_getElem?]
    simp [hi]

/-- "the flash is good": the row holds what the cycle was asked to leave (R169). -/
theorem row_flashCycle_good {asked : List (BitVec w)} (hasked : asked.length = c.units / 2) {f : Flash w}
    (hwf : f.cells.wf = true) {later : List (CycleResult w)} (hgood : f.script = .good :: later) :
    c.row (flashCycle c.span c.units c.addr asked f) = asked := by
  refine List.ext_getElem ((rowRead_length ..).trans hasked.symm) fun i hi hi' => ?_
  have hn : i < c.units / 2 := hasked ▸ hi'
  obtain ⟨stated, place⟩ := rowStated_word (units_even c) hrow hn
  have left : cycleLeaves c.span c.units c.addr asked f i = asked[i] := by
    simp [cycleLeaves, hgood, hrow, hi']
  rw [← left, ← flashCycle_read_row hrow asked hwf hn, ← place, ← rowWord_stated (v := c.view) stated]
  simp [ModifyCall.row, rowRead]

end

/-! ## Programming twice (R162, R171) -/

/-- Step 1 returns with nothing done where the row holds the data, so the whole call does (R162). -/
theorem engineRun_skips {w : Nat} {c : ModifyCall w} (hprogram : c.program = true) (hforce : c.force = false) {f : Flash w}
    (hheld : c.row f = c.want) : engineRun c f = { status := 0, flash := f.drawn, returned := true } := by
  have start : engineStart c f = { status := 0, flash := f.drawn, returned := true } := by
    simp [engineStart, engineSkip, hprogram, hforce, rowEquals, hheld]
  rw [engineRun, start, engineErase_of_returned c rfl, engineProgram_of_returned c rfl]

/-- Step 1 goes on where the row holds other words (R162). -/
theorem engineStart_goes_on {w : Nat} {c : ModifyCall w} {f : Flash w} (hother : c.row f ≠ c.want) :
    engineStart c f = { status := 0, flash := f.drawn, returned := false } := by
  simp [engineStart, engineSkip, rowEquals, hother]

/-- The engine has not returned, and the region in canonical form has a good cycle coming. -/
structure GoodCycleComing {w : Nat} (e : EngineState w) : Prop where
  goesOn : e.returned = false
  wf : e.flash.cells.wf = true
  script : ∃ later, e.flash.script = .good :: later

section
variable {w : Nat} {c : ModifyCall w} (hrow : rowStated c.span c.units c.addr = true)
include hrow

/-- A good erase is verified, and an erase that is not due uses no cycle: either way step 3 follows (R163). -/
theorem engineErase_good {e : EngineState w} (hgo : e.returned = false) (hwf : e.flash.cells.wf = true)
    {later : List (CycleResult w)} (hgood : e.flash.script = .good :: .good :: later) : GoodCycleComing (engineErase c e) := by
  rw [engineErase, if_neg (Bool.eq_false_iff.mp hgo)]
  split
  · have erased : rowEquals c (blankRow w (c.units / 2))
        (flashCycle c.span c.units c.addr (blankRow w (c.units / 2)) e.flash.drawn) = true :=
      decide_eq_true (row_flashCycle_good hrow List.length_replicate hwf hgood)
    rw [engineEraseCycle, if_pos erased]
    exact ⟨rfl, flashCycle_wf _ _ _ _ hwf, later, by simp [flashCycle, hgood]⟩
  · exact ⟨hgo, hwf, _, hgood⟩

/-- A good write leaves the data, and no write is due only where the row stood so (R164). -/
theorem engineProgram_good (hprogram : c.program = true) (hwant : c.want.length = c.units / 2) {e : EngineState w}
    (he : GoodCycleComing e) : c.row (engineProgram c e).flash = c.want := by
  obtain ⟨hgo, hwf, later, hgood⟩ := he
  rw [engineProgram, if_neg (Bool.eq_false_iff.mp hgo)]
  split
  · have written := row_flashCycle_good (f := e.flash.drawn) hrow hwant hwf hgood
    have verified : rowEquals c c.want (flashCycle c.span c.units c.addr c.want e.flash.drawn) = true :=
      decide_eq_true written
    rw [engineWriteCycle, if_pos verified]
    exact (row_drawn hrow (units_even c) _).trans written
  · rename_i due
    have stood : c.force = false ∧ c.row e.flash = c.want := by simpa [writeDue, hgo, hprogram, rowEquals] using due
    exact (row_drawn hrow (units_even c) _).trans stood.2

/-- On a row of its region with two good cycles coming, a program call leaves the data in the row (R171). -/
theorem engineRun_good_row (hwant : c.want.length = c.units / 2) {f : Flash w} (hwf : f.cells.wf = true)
    {later : List (CycleResult w)} (hgood : f.script = .good :: .good :: later) (hprogram : c.program = true)
    (hforce : c.force = false) : c.row (engineRun c f).flash = c.want := by
  by_cases hheld : c.row f = c.want
  · rw [engineRun_skips hprogram hforce hheld]
    exact (row_drawn hrow (units_even c) f).trans hheld
  · rw [engineRun, engineStart_goes_on hheld]
    exact engineProgram_good hrow hprogram hwant (engineErase_good hrow rfl hwf hgood)

end

/-- Settles O39: the first call leaves the data in the row, so the second returns at step 1. -/
theorem programmingTwiceCyclesOnce : Obligations.ProgrammingTwiceCyclesOnce := by
  intro w c f later hrow hwant hwf hgood hprogram hforce
  have held := engineRun_good_row hrow hwant hwf hgood hprogram hforce
  rw [engineRun_skips hprogram hforce held]
  exact ⟨rfl, rfl, rfl⟩

end Sys2Proof.Machine
end

section
/-! The Flash Modify Engine's table (`44_flash_modify_engine.md` R160 to R171): the status after each step, what a named cycle leaves in
the row, and from these every row of R171. -/

namespace Sys2Proof.Machine

/-! ## The status after each step (R161 to R165) -/

@[simp] theorem withEraseDone_zero (p : Params) : withEraseDone p 0 = p.stEraseDone := BitVec.zero_or

@[simp] theorem withProgramDone_zero (p : Params) : withProgramDone p 0 = p.stProgramDone := BitVec.zero_or

section
variable {w : Nat} (c : ModifyCall w)

theorem engineStart_status (f : Flash w) : (engineStart c f).status = 0 := by
  unfold engineStart engineSkip
  split <;> rfl

/-- Step 2 leaves the status, or adds `ERASE_DONE`, or adds `ERROR_ERASE` too and returns (R163). -/
theorem engineErase_status (e : EngineState w) :
    (engineErase c e).status = e.status ∨ (engineErase c e).status = withEraseDone c.par e.status ∨
    (engineErase c e).returned = true ∧ (engineErase c e).status = withErrorErase c.par (withEraseDone c.par e.status) := by
  unfold engineErase
  split
  · exact .inl rfl
  · split
    · unfold engineEraseCycle
      dsimp only
      split
      · exact .inr (.inl rfl)
      · exact .inr (.inr ⟨rfl, rfl⟩)
    · exact .inl rfl

/-- Step 3 leaves the status, or adds `PROGRAM_DONE`, or adds `ERROR_PROGRAM` too (R164). -/
theorem engineProgram_status (e : EngineState w) :
    (engineProgram c e).status = e.status ∨ (engineProgram c e).status = withProgramDone c.par e.status ∨
    (engineProgram c e).status = withErrorProgram c.par (withProgramDone c.par e.status) := by
  unfold engineProgram
  split
  · exact .inl rfl
  · split
    · unfold engineWriteCycle
      dsimp only
      split
      · exact .inr (.inl rfl)
      · exact .inr (.inr rfl)
    · exact .inl rfl

end

/-- Settles O35: by what step 2 did and, where it did not end the call, by what step 3 did. -/
theorem engineStatusIsOneOfSeven : Obligations.EngineStatusIsOneOfSeven := by
  intro w c f
  obtain idle | erased | ⟨failed, error⟩ := engineErase_status c (engineStart c f)
  case inr.inr =>
    rw [engineRun, engineProgram_of_returned c failed, error, engineStart_status]
    simp [withEraseDone, withErrorErase]
  all_goals
    obtain stood | written | error := engineProgram_status c (engineErase c (engineStart c f))
    all_goals simp [engineRun, engineStart_status, withEraseDone, withProgramDone, withErrorProgram, *]

/-- Settles O36: the call returns at step 1. -/
theorem engineSkipsACorrectRow : Obligations.EngineSkipsACorrectRow := by
  intro w c f hprogram hforce hheld
  rw [engineRun_skips hprogram hforce hheld]
  exact ⟨rfl, rfl, rfl⟩

/-! ## What a cycle leaves in the row (R169) -/

/-- The region in canonical form, the words of the call's row, and the results of the coming cycles. -/
structure RegionAt {w : Nat} (c : ModifyCall w) (f : Flash w) (row : List (BitVec w)) (script : List (CycleResult w)) : Prop where
  wf : f.cells.wf = true
  row : c.row f = row
  script : f.script = script

section
variable {w : Nat} {c : ModifyCall w} {f : Flash w} {row : List (BitVec w)} {script later : List (CycleResult w)}

/-- Reading back the row that stands there (R167). -/
theorem RegionAt.rowEquals (h : RegionAt c f row script) : rowEquals c row f = true := decide_eq_true h.row

theorem RegionAt.not_rowEquals (h : RegionAt c f row script) {other : List (BitVec w)} (hne : row ≠ other) :
    ¬ Machine.rowEquals c other f = true := fun heq => hne (h.row.symm.trans (of_decide_eq_true heq))

variable (hrow : rowStated c.span c.units c.addr = true)
include hrow

theorem RegionAt.drawn (h : RegionAt c f row script) : RegionAt c f.drawn row script :=
  ⟨h.wf, (row_drawn hrow (units_even c) f).trans h.row, h.script⟩

/-- A cycle on a row of the region leaves its words in the row, in order (R169). -/
theorem row_flashCycle (asked : List (BitVec w)) (hwf : f.cells.wf = true) :
    c.row (flashCycle c.span c.units c.addr asked f) =
      (List.range (c.units / 2)).map (cycleLeaves c.span c.units c.addr asked f) := by
  refine List.map_congr_left fun i hi => ?_
  have hn := List.mem_range.mp hi
  obtain ⟨stated, place⟩ := rowStated_word (units_even c) hrow hn
  rw [rowWord_stated (v := c.view) stated, place, flashCycle_read_row hrow asked hwf hn]

/-- An erase that the script calls good leaves the row all-ones, a write the words it was asked for. -/
theorem RegionAt.cycle_good (h : RegionAt c f row (.good :: later)) {asked : List (BitVec w)}
    (hasked : asked.length = c.units / 2) : RegionAt c (flashCycle c.span c.units c.addr asked f) asked later where
  wf := flashCycle_wf _ _ _ _ h.wf
  row := row_flashCycle_good hrow hasked h.wf h.script
  script := by simp [flashCycle, h.script]

/-- A cycle whose words the script names leaves those, whatever it was asked. -/
theorem RegionAt.cycle_leaves {left : List (BitVec w)} (h : RegionAt c f row (.leaves left :: later))
    (hleft : left.length = c.units / 2) (asked : List (BitVec w)) :
    RegionAt c (flashCycle c.span c.units c.addr asked f) left later where
  wf := flashCycle_wf _ _ _ _ h.wf
  row := by
    rw [row_flashCycle hrow asked h.wf]
    refine List.ext_getElem (by simp [hleft]) fun i _ hi => ?_
    simp [cycleLeaves, h.script, hi]
  script := by simp [flashCycle, h.script]

end

/-! ## The steps of a call (R162 to R164) -/

/-! ### Without a cycle -/

section
variable {w : Nat} {c : ModifyCall w}

/-- Step 1 goes on unless programming is asked without force and the row holds the data (R162). -/
theorem engineStart_eq_drawn {f : Flash w} (hgo : c.program = true → c.force = false → c.row f ≠ c.want) :
    engineStart c f = { status := 0, flash := f.drawn, returned := false } := by
  have skip : (c.program && !c.force && rowEquals c c.want f) = false := by simpa [rowEquals] using hgo
  simp [engineStart, engineSkip, skip]

/-- Step 2 with no erase due only reads (R163). -/
theorem engineErase_eq_drawn {e : EngineState w} (hgo : e.returned = false) (hforce : c.force = false)
    (hblank : c.row e.flash = blankRow w (c.units / 2)) : engineErase c e = { e with flash := e.flash.drawn } := by
  simp [engineErase, eraseDue, rowEquals, hgo, hforce, hblank]

/-- Step 3 with no write due only reads (R164). -/
theorem engineProgram_eq_drawn {e : EngineState w} (hgo : e.returned = false)
    (hidle : c.program = false ∨ c.force = false ∧ c.row e.flash = c.want) :
    engineProgram c e = { e with flash := e.flash.drawn } := by
  have idle : writeDue c e = false := by
    obtain hprogram | ⟨hforce, hheld⟩ := hidle
    · simp [writeDue, hprogram]
    · simp [writeDue, rowEquals, hforce, hheld]
  simp [engineProgram, hgo, idle]

/-- An erase call without force on a blank row does nothing but read (R163, R171). -/
theorem engineRun_erase_of_blank (hrow : rowStated c.span c.units c.addr = true) {f : Flash w} (hprogram : c.program = false)
    (hforce : c.force = false) (hblank : c.row f = blankRow w (c.units / 2)) :
    engineRun c f = { status := 0, flash := f.drawn.drawn.drawn, returned := false } := by
  have read : c.row f.drawn = blankRow w (c.units / 2) := (row_drawn hrow (units_even c) f).trans hblank
  rw [engineRun, engineStart_eq_drawn (by simp [hprogram]), engineErase_eq_drawn (e := ⟨0, f.drawn, false⟩) rfl hforce read,
    engineProgram_eq_drawn (e := ⟨0, f.drawn.drawn, false⟩) rfl (.inl hprogram)]

end

/-! ### With the cycles that fall due -/

/-- How far a call is: whether it has returned, its status, and its region. -/
structure EngineAt {w : Nat} (c : ModifyCall w) (e : EngineState w) (returned : Bool) (status : Byte) (row : List (BitVec w))
    (script : List (CycleResult w)) : Prop where
  returned : e.returned = returned
  status : e.status = status
  region : RegionAt c e.flash row script

section
variable {w : Nat} {c : ModifyCall w} {e : EngineState w} {returned : Bool} {status : Byte} {row : List (BitVec w)}
  {script later : List (CycleResult w)}

/-- What R171 says of a call's end. -/
theorem EngineAt.report (h : EngineAt c e returned status row script) :
    e.status = status ∧ c.row e.flash = row ∧ e.flash.script = script := ⟨h.status, h.region.row, h.region.script⟩

theorem EngineAt.engineErase_eq_cycle (h : EngineAt c e false status row script)
    (hdue : c.force = true ∨ row ≠ blankRow w (c.units / 2)) :
    engineErase c e = engineEraseCycle c { e with flash := e.flash.drawn } := by
  have due : eraseDue c e = true := by simpa [eraseDue, rowEquals, h.returned, h.region.row] using hdue
  simp [engineErase, h.returned, due]

theorem EngineAt.engineProgram_eq_cycle (h : EngineAt c e false status row script) (hprogram : c.program = true)
    (hdue : c.force = true ∨ row ≠ c.want) : engineProgram c e = engineWriteCycle c { e with flash := e.flash.drawn } := by
  have due : writeDue c e = true := by simpa [writeDue, rowEquals, h.returned, h.region.row, hprogram] using hdue
  simp [engineProgram, h.returned, due]

variable (hrow : rowStated c.span c.units c.addr = true)
include hrow

theorem engineStart_at {f : Flash w} (hwf : f.cells.wf = true) (hscript : f.script = script)
    (hgo : c.program = true → c.force = false → c.row f ≠ c.want) : EngineAt c (engineStart c f) false 0 (c.row f) script := by
  rw [engineStart_eq_drawn hgo]
  exact ⟨rfl, rfl, RegionAt.drawn hrow ⟨hwf, rfl, hscript⟩⟩

theorem EngineAt.erase_idle (h : EngineAt c e false status row script) (hforce : c.force = false)
    (hblank : row = blankRow w (c.units / 2)) : EngineAt c (engineErase c e) false status row script := by
  rw [engineErase_eq_drawn h.returned hforce (h.region.row.trans hblank)]
  exact ⟨h.returned, h.status, h.region.drawn hrow⟩

theorem EngineAt.erase_good (h : EngineAt c e false 0 row (.good :: later))
    (hdue : c.force = true ∨ row ≠ blankRow w (c.units / 2)) :
    EngineAt c (engineErase c e) false c.par.stEraseDone (blankRow w (c.units / 2)) later := by
  have erased := (h.region.drawn hrow).cycle_good hrow (asked := blankRow w (c.units / 2)) List.length_replicate
  rw [h.engineErase_eq_cycle hdue, engineEraseCycle, if_pos erased.rowEquals, h.status, withEraseDone_zero]
  exact ⟨rfl, rfl, erased.drawn hrow⟩

/-- An erase that does not leave the row all-ones ends the call (R163). -/
theorem EngineAt.erase_fails {left : List (BitVec w)} (h : EngineAt c e false 0 row (.leaves left :: later))
    (hdue : c.force = true ∨ row ≠ blankRow w (c.units / 2)) (hlength : left.length = c.units / 2)
    (hleft : left ≠ blankRow w (c.units / 2)) :
    EngineAt c (engineErase c e) true (c.par.stEraseDone ||| c.par.stErrorErase) left later := by
  have cycled := (h.region.drawn hrow).cycle_leaves hrow hlength (blankRow w (c.units / 2))
  rw [h.engineErase_eq_cycle hdue, engineEraseCycle, if_neg (cycled.not_rowEquals hleft), h.status, withEraseDone_zero]
  exact ⟨rfl, rfl, cycled.drawn hrow⟩

theorem EngineAt.program_idle (h : EngineAt c e false status row script)
    (hidle : c.program = false ∨ c.force = false ∧ row = c.want) : EngineAt c (engineProgram c e) false status row script := by
  rw [engineProgram_eq_drawn h.returned (h.region.row ▸ hidle)]
  exact ⟨h.returned, h.status, h.region.drawn hrow⟩

theorem EngineAt.program_good (h : EngineAt c e false status row (.good :: later)) (hprogram : c.program = true)
    (hdue : c.force = true ∨ row ≠ c.want) (hwant : c.want.length = c.units / 2) :
    EngineAt c (engineProgram c e) false (withProgramDone c.par status) c.want later := by
  have written := (h.region.drawn hrow).cycle_good hrow hwant
  rw [h.engineProgram_eq_cycle hprogram hdue, engineWriteCycle, if_pos written.rowEquals, h.status]
  exact ⟨rfl, rfl, written.drawn hrow⟩

/-- A write that does not leave the data is reported (R164). -/
theorem EngineAt.program_fails {left : List (BitVec w)} (h : EngineAt c e false status row (.leaves left :: later))
    (hprogram : c.program = true) (hdue : c.force = true ∨ row ≠ c.want) (hlength : left.length = c.units / 2)
    (hleft : left ≠ c.want) :
    EngineAt c (engineProgram c e) true (withErrorProgram c.par (withProgramDone c.par status)) left later := by
  have cycled := (h.region.drawn hrow).cycle_leaves hrow hlength c.want
  rw [h.engineProgram_eq_cycle hprogram hdue, engineWriteCycle, if_neg (cycled.not_rowEquals hleft), h.status]
  exact ⟨rfl, rfl, cycled.drawn hrow⟩

end

/-! ## The table (R171) -/

/-- Settles O37, row by row of the table: step 1 ends the call or goes on, and each cycle that falls due is read back. -/
theorem engineTableOnGoodFlash : Obligations.EngineTableOnGoodFlash := by
  intro w c f later hrow hwant hwf hgood n blank row e after
  have started := engineStart_at hrow hwf hgood
  have erased := fun hgo hdue => (started hgo).erase_good hrow hdue
  refine ⟨fun hprogram hforce hblank => ?eraseBlank, fun hprogram _ hused => ?erase, fun hprogram hforce => ?eraseForced,
    fun hprogram hforce hheld => ?programHeld, fun hprogram hforce hblank hdata => ?programBlank,
    fun hprogram hforce hused hother hdata => ?programOnes, fun hprogram _ hused hother hdata => ?program,
    fun hprogram hforce => ?programForced⟩
  case eraseBlank =>
    rw [show e = _ from engineRun_erase_of_blank hrow hprogram hforce hblank]
    exact ⟨rfl, rfl, rfl⟩
  case erase => exact ((erased (by simp [hprogram]) (.inr hused)).program_idle hrow (.inl hprogram)).report
  case eraseForced => exact ((erased (by simp [hprogram]) (.inl hforce)).program_idle hrow (.inl hprogram)).report
  case programHeld => exact engineSkipsACorrectRow w c f hprogram hforce hheld
  case programBlank =>
    have hother : row ≠ c.want := fun hheld => hdata (hheld.symm.trans hblank)
    have idle := (started fun _ _ => hother).erase_idle hrow hforce hblank
    exact withProgramDone_zero c.par ▸ (idle.program_good hrow hprogram (.inr hother) hwant).report
  case programOnes =>
    exact ((erased (fun _ _ => hother) (.inr hused)).program_idle hrow (.inr ⟨hforce, hdata.symm⟩)).report
  case program =>
    exact ((erased (fun _ _ => hother) (.inr hused)).program_good hrow hprogram (.inr hdata.symm) hwant).report
  case programForced =>
    exact ((erased (by simp [hforce]) (.inl hforce)).program_good hrow hprogram (.inl hforce) hwant).report

/-- Settles O38: the cycle that fails is the erase, the write of a blank row, or the write after a good erase. -/
theorem engineTableOnFailingCycle : Obligations.EngineTableOnFailingCycle := by
  intro w c f left later hrow hwant hwf hlength n blank row e after
  refine ⟨fun hdue hscript hleft => ?erase, fun hprogram hforce hblank hdata hscript hleft => ?writeOnly,
    fun hprogram hdue hscript hleft => ?writeAfterErase⟩
  case erase =>
    have hgo : c.program = true → c.force = false → row ≠ c.want := fun hprogram hforce =>
      (hdue.resolve_left (by simp [hforce])).2 hprogram
    have failed := (engineStart_at hrow hwf hscript hgo).erase_fails hrow (hdue.imp_right And.left) hlength hleft
    rw [← engineProgram_of_returned c failed.returned] at failed
    exact failed.report
  case writeOnly =>
    have hother : row ≠ c.want := fun hheld => hdata (hheld.symm.trans hblank)
    have idle := (engineStart_at hrow hwf hscript fun _ _ => hother).erase_idle hrow hforce hblank
    exact withProgramDone_zero c.par ▸ (idle.program_fails hrow hprogram (.inr hother) hlength hleft).report
  case writeAfterErase =>
    have hgo : c.program = true → c.force = false → row ≠ c.want := fun _ hforce =>
      (hdue.resolve_left (by simp [hforce])).2.1
    have erased := (engineStart_at hrow hwf hscript hgo).erase_good hrow (hdue.imp_right And.left)
    have writeDue : c.force = true ∨ blank ≠ c.want := hdue.imp_right fun used => used.2.2.symm
    exact (erased.program_fails hrow hprogram writeDue hlength hleft).report

end Sys2Proof.Machine
end

section
/-! The host peer (`45_host_peer.md` R183, R186, R191, R192): in the Connected mode every request it sends is answered by a frame it
accepts, and a patched vector is read back but for the two bits that the jump-table words do not carry. -/

namespace Sys2Proof.Machine

/-! ## The response a host accepts (R183, R186) -/

/-- One whole frame was appended to `TXS`, with a payload the host accepts in answer to the request. -/
def AnswersHost (request : Instr) (s t : State) : Prop :=
  ∃ p, t.txs = s.txs ++ frameBytes p ∧ hostAccepts request p = true

theorem hostAccepts_of_head {request : Instr} {code : Byte} {p : List Byte} (hcode : (encode request).head? = some code)
    (hhead : p.head? = some (responseCode code)) (hlength : expectedResponseLength request = some p.length) :
    hostAccepts request p = true := by
  simp [hostAccepts, hcode, hhead, hlength]

theorem AnswersHost.send {request : Instr} {s u : State} {p : List Byte} (htxs : u.txs = s.txs)
    (haccepts : hostAccepts request p = true) : AnswersHost request s (u.send p) :=
  ⟨p, by rw [send_txs, htxs], haccepts⟩

/-- In the Connected mode the gate answers what stands behind it (R131). -/
theorem whenConnected_next_inj {code : Byte} {s t u : State} (hs : s.hs = true)
    (h : whenConnected code s (.next u) = .next t) : u = t :=
  Host.Outcome.next.inj ((whenConnected_hs hs).symm.trans h)

theorem execHandshake_answersHost {s t : State} (hlegal : s.par.legal = true) (h : exec .handshake s = .next t) :
    AnswersHost .handshake s t := by
  rw [← Host.Outcome.next.inj h]
  exact .send rfl (hostAccepts_of_head rfl rfl (congrArg some (handshakePayload_length hlegal).symm))

theorem execReadRow_answersHost {tblpag : Byte} {offset : Word16} {s t : State} (hs : s.hs = true)
    (h : exec (.readRow tblpag offset) s = .next t) : AnswersHost (.readRow tblpag offset) s t := by
  rw [← whenConnected_next_inj hs h]
  exact .send rfl (hostAccepts_of_head rfl rfl (congrArg some (readRowPayload_length (rowRead_length ..)).symm))

theorem execStartApp_answersHost {s t : State} (hs : s.hs = true) (h : exec .startApp s = .next t) :
    AnswersHost .startApp s t := by
  rw [exec_startApp_connected hs] at h
  split at h
  · cases h
  · rw [← Host.Outcome.next.inj h]
    exact AnswersHost.send (flagTested_txs s) (hostAccepts_of_head rfl rfl rfl)

section
variable {request : Instr} {code : Byte} (hcode : (encode request).head? = some code)
  (hlength : expectedResponseLength request = some 2)
include hcode hlength

theorem modifyPm_answersHost (addr : FlashAddr) (program force : Bool) (data : List Byte) (s : State) :
    AnswersHost request s (modifyPm code addr program force data s) :=
  .send rfl (hostAccepts_of_head hcode rfl hlength)

theorem modifyEe_answersHost (addr : FlashAddr) (program force : Bool) (data : List Byte) (s : State) :
    AnswersHost request s (modifyEe code addr program force data s) :=
  .send rfl (hostAccepts_of_head hcode rfl hlength)

end

/-- Settles O34, by the request: each sends one record, whose first byte and length are those the host expects. -/
theorem hostAcceptsEveryResponse : Obligations.HostAcceptsEveryResponse := by
  intro i s t hlayer hexpected hs hlegal h
  change AnswersHost i s t
  cases i with
  | handshake => exact execHandshake_answersHost hlegal h
  | readRow => exact execReadRow_answersHost hs h
  | startApp => exact execStartApp_answersHost hs h
  | erasePm | erasePmForce | programPm | programPmForce =>
    rw [← whenConnected_next_inj hs h]
    exact modifyPm_answersHost rfl rfl ..
  | eraseEe | eraseEeForce | programEe | programEeForce =>
    rw [← whenConnected_next_inj hs h]
    exact modifyEe_answersHost rfl rfl ..
  | noRegion => exact absurd rfl hexpected
  | handshakeRsp | readRowRsp | startAppRsp | modifyRsp | frameStart | escAd | escAe | literal | frame => cases hlayer

/-! ## The jump-table words of a vector (R191, R192) -/

/-- The first word carries bits 15:1 of the vector under its opcode. -/
theorem patchVector_low (v : PmWord) : (patchVector v).1 &&& 0x00FFFE = v &&& 0x00FFFE := by
  simp [patchVector, BitVec.and_or_distrib_right, BitVec.and_assoc]

/-- The second word carries bits 22:16 of the vector. -/
theorem patchVector_high (v : PmWord) : ((patchVector v).2 &&& 0x7F) <<< 16 = v &&& 0x7F0000 := by
  simp only [patchVector, BitVec.and_assoc, BitVec.and_self, BitVec.shiftLeft_and_distrib, BitVec.shiftLeft_ushiftRight]
  rfl

theorem unpatchVector_patchVector (v : PmWord) : unpatchVector (patchVector v) = v &&& 0x7FFFFE := by
  calc unpatchVector (patchVector v)
      = v &&& 0x00FFFE ||| v &&& 0x7F0000 := congrArg₂ (· ||| ·) (patchVector_low v) (patchVector_high v)
    _ = v &&& 0x7FFFFE := BitVec.and_or_distrib_left.symm

/-- The mask of a vector's bits in its jump-table words has every bit but 0 and 23. -/
theorem vectorMask_getLsbD : ∀ i < 24, i ≠ 0 → i ≠ 23 → (0x7FFFFE : PmWord).getLsbD i = true := by decide

theorem and_vectorMask {v : PmWord} (h0 : v.getLsbD 0 = false) (h23 : v.getLsbD 23 = false) : v &&& 0x7FFFFE = v := by
  refine BitVec.eq_of_getLsbD_eq fun i hi => ?_
  rw [BitVec.getLsbD_and]
  by_cases low : i = 0
  · rw [low, h0, Bool.false_and]
  · by_cases high : i = 23
    · rw [high, h23, Bool.false_and]
    · rw [vectorMask_getLsbD i hi low high, Bool.and_true]

/-- Settles O60: the two words together carry bits 22:1. -/
theorem unpatchInvertsPatch : Obligations.UnpatchInvertsPatch :=
  ⟨unpatchVector_patchVector, fun v h0 h23 => (unpatchVector_patchVector v).trans (and_vectorMask h0 h23)⟩

end Sys2Proof.Machine
end

section
/-! Events and modes over a step (`60_exceptions.md` R210 to R225): the state an event leaves, which of the framer's operations
raise one, what a request records, and when the mode changes. -/

namespace Sys2Proof.Machine

/-! ## The state an event leaves (R222) -/

/-- Where the receive sequencer is after an event: a resynchronisation has begun a new frame (R215), every other event drops to
`HEADER`. -/
def Event.target : Event → RxState
  | .resync _ => .length
  | _ => .header

theorem Event.target_of_ne_resync {e : Event} (h : ∀ st, e ≠ .resync st) : e.target = .header := by
  cases e with
  | resync st => exact absurd rfl (h st)
  | escapeError | lengthZero | lengthTooLong | crcMismatch | ignoredBeforeHandshake => rfl

/-- From `s` to `t` the event `e` is raised and the frame is dropped: within the framer's effect, nothing is stored and no escape is
left pending. -/
structure DropsFrame (e : Event) (s t : State) : Prop extends FramerEffect s t where
  evlog : t.evlog = s.evlog ++ [e]
  buffer : t.rxbuf = s.rxbuf
  rxlen : t.rxlen = s.rxlen
  rxcnt : t.rxcnt = s.rxcnt
  esc : t.esc = false
  rxst : t.rxst = e.target

/-- From `s` to `t` no event is raised, or one is and drops the frame (R221, R222). -/
def RaisesAtMostOne (s t : State) : Prop := t.evlog = s.evlog ∨ ∃ e, DropsFrame e s t

theorem takeEvent_dropsFrame {s : State} (hesc : s.esc = false) (e : Event) : DropsFrame e s (s.takeEvent e e.target) :=
  { (FramerEffect.refl s).receive .. with
    evlog := rfl, buffer := rfl, rxlen := rfl, rxcnt := rfl, esc := hesc, rxst := rfl }

/-! ## The framer (R112 to R120) -/

section
variable {s : State} (hesc : s.esc = false)
include hesc

theorem marker_raisesAtMostOne : RaisesAtMostOne s (marker s) := by
  unfold marker
  split
  · exact .inl rfl
  · exact .inr ⟨_, takeEvent_dropsFrame hesc (.resync s.rxst)⟩

theorem lengthByte_raisesAtMostOne (d : Byte) : RaisesAtMostOne s (lengthByte d s) := by
  unfold lengthByte
  split_ifs
  · exact .inr ⟨_, takeEvent_dropsFrame hesc .lengthZero⟩
  · exact .inr ⟨_, takeEvent_dropsFrame hesc (.lengthTooLong d)⟩
  · exact .inl rfl

theorem crcHigh_raisesAtMostOne (d : Byte) : RaisesAtMostOne s (crcHigh d s) := by
  by_cases residue : crcUpdate s.rxcrc d = 0
  · rw [crcHigh_of_residue_zero residue]
    exact .inl rfl
  · rw [crcHigh_of_residue_ne_zero residue]
    exact .inr ⟨_, { takeEvent_dropsFrame hesc (.crcMismatch (crcUpdate s.rxcrc d)) with }⟩

theorem decoded_raisesAtMostOne {d : Byte} {t : State} (h : decoded d s = .next t) : RaisesAtMostOne s t := by
  obtain ⟨-, rfl⟩ | ⟨-, rfl⟩ | ⟨-, -, hd⟩ | ⟨-, rfl⟩ | ⟨-, rfl⟩ := decoded_cases h
  · exact .inl rfl
  · exact lengthByte_raisesAtMostOne hesc d
  · rw [dataByte_next hd]
    exact .inl rfl
  · exact .inl rfl
  · exact crcHigh_raisesAtMostOne hesc d

end

/-- What is raised after the escape has ended is raised by the symbol: ending the escape records nothing. -/
theorem RaisesAtMostOne.of_escape_ended {s t : State} (h : RaisesAtMostOne { s with esc := false } t) : RaisesAtMostOne s t :=
  h.imp id fun ⟨e, drops⟩ => ⟨e, { drops with }⟩

/-- The wire symbol that a raw byte completes, before any request it delivers. -/
theorem exec_symbol_raisesAtMostOne {r : Byte} {i : Instr} {s t : State} (hi : decodeRaw s.esc r = .symbol i)
    (h : exec i s = .next t) : RaisesAtMostOne s t := by
  obtain ⟨-, rfl | rfl⟩ | ⟨hesc, rfl | rfl⟩ := decodeRaw_symbol_cases hi
  · exact (decoded_raisesAtMostOne (s := { s with esc := false }) rfl h).of_escape_ended
  · exact (decoded_raisesAtMostOne (s := { s with esc := false }) rfl h).of_escape_ended
  · exact Host.Outcome.next.inj h ▸ marker_raisesAtMostOne hesc
  · exact decoded_raisesAtMostOne hesc h

/-- The symbol's own effect meets no pending escape: a pair has ended it, and any other symbol comes without one (R111, R113). -/
theorem afterEscape_of_decodeRaw {r : Byte} {i : Instr} {s : State} (hi : decodeRaw s.esc r = .symbol i) :
    afterEscape i s = { s with esc := false } := by
  obtain ⟨-, rfl | rfl⟩ | ⟨hesc, rfl | rfl⟩ := decodeRaw_symbol_cases hi
  · rfl
  · rfl
  · exact (esc_eta hesc).symm
  · exact (esc_eta hesc).symm

/-- The symbol that completes an accepted packet leaves the framer in `HEADER` and records nothing (R120). -/
theorem exec_symbol_of_accepts {r : Byte} {i : Instr} {s u : State} (hi : decodeRaw s.esc r = .symbol i)
    (ha : acceptsPacket i s = true) (hu : exec i s = .next u) : u = { s with esc := false, rxcrc := 0, rxst := .header } := by
  cases hd : i.decodedByte with
  | some d =>
    have hst := rxst_of_acceptsPacket ha
    have accepted := exec_crcHigh_of_residue_zero hd hst ((acceptsPacket_iff_residue_zero hd hst).mp ha)
    rw [accepted, afterEscape_of_decodeRaw hi] at hu
    exact (Host.Outcome.next.inj hu).symm
  | none => simp [acceptsPacket, hd] at ha

/-! ## A request (R130, R131) -/

@[simp] theorem flagTested_evlog (s : State) : (flagTested s).evlog = s.evlog := by
  unfold flagTested
  split <;> rfl

/-- Past the gate a request records nothing, and START_APP alone changes `RUN` (R146, R210). -/
theorem exec_request_past_gate {i : Instr} {s t : State} (hi : i.layer = .request) (hgate : i ≠ .handshake → s.hs = true)
    (h : exec i s = .next t) : t.evlog = s.evlog ∧ t.run = if i = .startApp then .app else s.run := by
  cases i with
  | handshake =>
    rw [← Host.Outcome.next.inj h]
    exact ⟨send_evlog .., send_run ..⟩
  | readRow tblpag offset =>
    rw [← Host.Outcome.next.inj ((execReadRow_connected tblpag offset (hgate nofun)).symm.trans h)]
    exact ⟨send_evlog .., send_run ..⟩
  | startApp =>
    rw [exec_startApp_connected (hgate nofun)] at h
    split at h <;> cases h
    exact ⟨flagTested_evlog s, rfl⟩
  | erasePm | erasePmForce | programPm | programPmForce | eraseEe | eraseEeForce | programEe | programEeForce =>
    rw [← Host.Outcome.next.inj ((whenConnected_hs (hgate nofun)).symm.trans h)]
    exact ⟨send_evlog .., send_run ..⟩
  | noRegion code tblpag offset data =>
    have answer := Host.Outcome.next.inj ((whenConnected_hs (hgate nofun)).symm.trans h)
    split at answer <;> subst answer
    · exact ⟨rfl, rfl⟩
    · exact ⟨send_evlog .., send_run ..⟩
  | handshakeRsp | readRowRsp | startAppRsp | modifyRsp | frameStart | escAd | escAe | literal | frame => cases hi

/-- A request is stopped by the gate, which records that alone (R216), or is past it. -/
theorem exec_request_cases {i : Instr} {s t : State} (hi : i.layer = .request) (h : exec i s = .next t) :
    (s.hs = false ∧ ∃ code, t = s.raise (.ignoredBeforeHandshake code)) ∨
    ((i ≠ .handshake → s.hs = true) ∧ t.evlog = s.evlog ∧ t.run = if i = .startApp then .app else s.run) := by
  by_cases hgate : i ≠ .handshake → s.hs = true
  · exact .inr ⟨hgate, exec_request_past_gate hi hgate h⟩
  · obtain ⟨hne, hs⟩ := Classical.not_imp.mp hgate
    have hs := Bool.eq_false_of_not_eq_true hs
    obtain ⟨code, -, ignored⟩ := requestsAreIgnoredBeforeHandshake i s hi hne hs
    exact .inl ⟨hs, code, (Host.Outcome.next.inj (ignored.symm.trans h)).symm⟩

/-! ## The events of a step (R221, R222) -/

theorem runSymbol_raisesAtMostOne {r : Byte} {i : Instr} {s t : State} (hi : decodeRaw s.esc r = .symbol i)
    (h : runSymbol i s = .next t) : RaisesAtMostOne s t := by
  obtain ⟨u, hu, ⟨-, rfl⟩ | ⟨ha, hdisp⟩⟩ := runSymbol_cases h
  · exact exec_symbol_raisesAtMostOne hi hu
  · obtain ⟨request, hreq, hexec⟩ := dispatch_next hdisp
    obtain rfl := exec_symbol_of_accepts hi ha hu
    obtain ⟨-, code, rfl⟩ | ⟨-, hlog, -⟩ := exec_request_cases (decodeRequest_layer hreq) hexec
    · have drops := takeEvent_dropsFrame (s := { s with esc := false, rxcrc := 0, rxst := .header }) rfl
        (.ignoredBeforeHandshake code)
      exact .inr ⟨_, { drops with rxbuf := fun _ => drops.buffer }⟩
    · exact .inl hlog

theorem step_raisesAtMostOne {s t : State} (h : step s = .next t) : RaisesAtMostOne s t := by
  obtain ⟨-, rfl⟩ | ⟨-, -, rfl⟩ | ⟨r, rest, -, -, hr⟩ := poll_cases h
  · exact .inl rfl
  · exact .inl rfl
  · have taken : RaisesAtMostOne { s with rxs := rest } t := by
      obtain ⟨-, rfl⟩ | ⟨-, rfl⟩ | ⟨i, hi, hx⟩ := hr
      · exact .inl rfl
      · exact RaisesAtMostOne.of_escape_ended (.inr ⟨_, takeEvent_dropsFrame rfl (.escapeError r)⟩)
      · exact runSymbol_raisesAtMostOne hi hx
    exact taken.imp id fun ⟨e, drops⟩ => ⟨e, { drops with }⟩

/-- Settles O51: an event that a step raises is appended once. -/
theorem stepRaisesAtMostOneEvent : Obligations.StepRaisesAtMostOneEvent :=
  fun _ _ h => (step_raisesAtMostOne h).imp id fun ⟨e, drops⟩ => ⟨e, drops.evlog⟩

/-- Settles O52: the event appended is the one that dropped the frame. -/
theorem eventsDropWithoutSideEffect : Obligations.EventsDropWithoutSideEffect := by
  intro s t e h hlog
  obtain hkept | ⟨e', drops⟩ := step_raisesAtMostOne h
  · simp [hlog] at hkept
  · obtain rfl : e' = e := by simpa [drops.evlog] using hlog
    refine ⟨drops.hs, drops.run, drops.buffer, drops.rxlen, drops.rxcnt, drops.txcrc, drops.txs, drops.pm, drops.ee, drops.cfg,
      drops.esc, ?_, fun hne => drops.rxst.trans (Event.target_of_ne_resync hne)⟩
    rintro st rfl
    exact drops.rxst

/-! ## The mode over a step (R225) -/

/-- Only the code byte `0x03` stands for START_APP (R78). -/
theorem decodeRequest_startApp_iff {p : List Byte} {i : Instr} (h : decodeRequest p = .ok i) :
    i = .startApp ↔ p.getD 0 0 = 0x03 := by
  cases p with
  | nil => cases h
  | cons code body =>
    constructor
    · rintro rfl
      simpa [encode] using (encode_head?_of_decodeRequest h).symm
    · intro hcode
      obtain rfl : code = 0x03 := hcode
      exact (Except.ok.inj h).symm

/-- `RUN` after a step: `APP` once the step accepts a START_APP in the Connected mode (R19, R131, R146). -/
theorem step_run {s t : State} (h : step s = .next t) :
    t.run = if s.accepting && s.hs && decide (s.code = 0x03) then .app else s.run := by
  obtain ⟨ha, effect⟩ | ⟨ha, u, i, effect, hreq, hexec⟩ := step_cases_accepting h
  · simp [ha, effect.run]
  · have code : i = .startApp ↔ s.code = 0x03 := decodeRequest_startApp_iff hreq
    obtain ⟨hs, -, rfl⟩ | ⟨hgate, -, hrun⟩ := exec_request_cases (decodeRequest_layer hreq) hexec
    · simp [← effect.hs, hs, effect.run]
    · have connected : s.code = 0x03 → s.hs = true := fun hc => effect.hs ▸ hgate (code.mpr hc ▸ nofun)
      simp only [hrun, effect.run, code, ha, Bool.true_and, Bool.and_eq_true, decide_eq_true_eq,
        and_iff_right_of_imp connected]

/-- Settles O48, by the equations for `HS` and `RUN` over a step; once started, no step changes the state. -/
theorem modesChangeOnlyByHandshakeAndStart : Obligations.ModesChangeOnlyByHandshakeAndStart := by
  intro s t h hne
  have hhs := step_hs h
  have hrun := step_run h
  cases run : s.run with
  | app => exact absurd (Host.Outcome.next.inj ((step_of_app run).symm.trans h) ▸ rfl) hne
  | boot =>
    cases hs : s.hs with
    | false =>
      have stays : t.run = .boot := by simpa [hs, run] using hrun
      cases opened : t.hs with
      | false => exact absurd (by simp [State.mode, run, hs, stays, opened]) hne
      | true =>
        obtain ⟨ha, hc⟩ : s.accepting = true ∧ s.code = 0x00 := by simpa [hs, opened] using hhs
        exact .inl ⟨by simp [State.mode, run, hs], by simp [State.mode, stays, opened], ha, hc⟩
    | true =>
      have kept : t.hs = true := by simpa [hs] using hhs
      by_cases hstart : s.accepting = true ∧ s.code = 0x03
      · have started : t.run = .app := by simpa [hs, hstart] using hrun
        exact .inr ⟨by simp [State.mode, run, hs], by simp [State.mode, started], hstart⟩
      · have stays : t.run = .boot := by
          simpa only [hs, run, Bool.and_true, Bool.and_eq_true, decide_eq_true_eq, if_neg hstart] using hrun
        exact absurd (by simp [State.mode, run, hs, stays, kept]) hne

end Sys2Proof.Machine
end

section
/-! Resets and waiting bytes (`70_reset_and_hazards.md` R240, R242, R250, R260): a step takes at most the oldest waiting byte, and what
a reset, and power loss inside a modify, leave. -/

namespace Sys2Proof.Machine

/-! ## The waiting bytes over a step (R110, R250) -/

@[simp] theorem marker_rxs (s : State) : (marker s).rxs = s.rxs := by rw [marker_eq_resync]

@[simp] theorem lengthByte_rxs (d : Byte) (s : State) : (lengthByte d s).rxs = s.rxs := by
  obtain ⟨e, rejected⟩ | ⟨-, -, accepted⟩ := lengthByte_cases d s
  · rw [rejected, takeEvent_rxs]
  · rw [accepted]

@[simp] theorem crcHigh_rxs (d : Byte) (s : State) : (crcHigh d s).rxs = s.rxs := by
  obtain ⟨log, hc⟩ := crcHigh_eq d s
  rw [hc]

theorem decoded_rxs {d : Byte} {s t : State} (h : decoded d s = .next t) : t.rxs = s.rxs := by
  obtain ⟨-, rfl⟩ | ⟨-, rfl⟩ | ⟨-, -, hd⟩ | ⟨-, rfl⟩ | ⟨-, rfl⟩ := decoded_cases h
  · rfl
  · exact lengthByte_rxs d s
  · rw [dataByte_next hd, storeByte_rxs]
  · exact crcLow_rxs s d
  · exact crcHigh_rxs d s

/-- The framer's operations take no byte: POLL has taken the one they run on. -/
theorem exec_symbol_rxs {esc : Bool} {r : Byte} {i : Instr} {s t : State} (hi : decodeRaw esc r = .symbol i)
    (h : exec i s = .next t) : t.rxs = s.rxs := by
  obtain ⟨-, rfl | rfl⟩ | ⟨-, rfl | rfl⟩ := decodeRaw_symbol_cases hi
  · exact decoded_rxs (s := { s with esc := false }) h
  · exact decoded_rxs (s := { s with esc := false }) h
  · exact Host.Outcome.next.inj h ▸ marker_rxs s
  · exact decoded_rxs h

/-- The request that a symbol delivers runs in the same step and takes no byte either. -/
theorem runSymbol_rxs {esc : Bool} {r : Byte} {i : Instr} {s t : State} (hi : decodeRaw esc r = .symbol i)
    (h : runSymbol i s = .next t) : t.rxs = s.rxs := by
  obtain ⟨u, hu, ⟨-, rfl⟩ | ⟨-, hdisp⟩⟩ := runSymbol_cases h
  · exact exec_symbol_rxs hi hu
  · obtain ⟨request, hreq, hexec⟩ := dispatch_next hdisp
    exact (exec_requestEffect (decodeRequest_layer hreq) hexec).rxs.trans (exec_symbol_rxs hi hu)

/-- The waiting bytes after a step: while the block runs the oldest, if any, is gone; once it has started the application they stay. -/
theorem step_rxs {s t : State} (h : step s = .next t) :
    (s.run = .app ∧ t.rxs = s.rxs) ∨ (s.run = .boot ∧ t.rxs = s.rxs.tail) := by
  obtain ⟨hrun, rfl⟩ | ⟨hrun, hrxs, rfl⟩ | ⟨r, rest, hrun, hrxs, hr⟩ := poll_cases h
  · exact .inl ⟨hrun, rfl⟩
  · exact .inr ⟨hrun, by rw [hrxs, List.tail_nil]⟩
  · refine .inr ⟨hrun, ?_⟩
    rw [hrxs, List.tail_cons]
    obtain ⟨-, rfl⟩ | ⟨-, rfl⟩ | ⟨i, hi, hx⟩ := hr
    · exact escapeStart_rxs _
    · exact escapeFault_rxs _ r
    · exact runSymbol_rxs hi hx

/-- Settles O53, by `RUN` and whether a byte waits. -/
theorem stepConsumesAtMostOneByte : Obligations.StepConsumesAtMostOneByte := by
  intro s t h
  obtain ⟨happ, kept⟩ | ⟨-, tail⟩ := step_rxs h
  · exact ⟨.inl kept, fun hboot => nomatch happ.symm.trans hboot⟩
  · refine ⟨?_, fun _ r rest hrxs => by rw [tail, hrxs, List.tail_cons]⟩
    cases hrxs : s.rxs with
    | nil => exact .inl (by rw [tail, hrxs, List.tail_nil])
    | cons r rest => exact .inr ⟨r, by rw [tail, hrxs, List.tail_cons]⟩

/-! ## Power loss in a step (R50, R242, R260) -/

/-- A request that is cut short has written flash at most. -/
theorem cutShort_eq (cut : CutPoint) (i : Instr) (s : State) :
    ∃ pm ee, s.cutShort cut i = { s with pm := pm, ee := ee } := by
  cases i with
  | erasePm | erasePmForce | programPm | programPmForce => exact ⟨_, s.ee, rfl⟩
  | eraseEe | eraseEeForce | programEe | programEeForce => exact ⟨s.pm, _, rfl⟩
  | _ => exact ⟨s.pm, s.ee, rfl⟩

theorem cutShort_pmCommand {code tblpag : Byte} {offset : Word16} {data : List Byte} {i : Instr}
    (hi : i ∈ [Instr.erasePm code tblpag offset data, .erasePmForce code tblpag offset data,
      .programPm code tblpag offset data, .programPmForce code tblpag offset data]) (cut : CutPoint) (s : State) :
    ∃ program force, s.cutShort cut i = s.cutPm cut tblpag offset program force data := by
  simp only [List.mem_cons, List.not_mem_nil, or_false] at hi
  rcases hi with rfl | rfl | rfl | rfl <;> exact ⟨_, _, rfl⟩

theorem cutShort_eeCommand {code tblpag : Byte} {offset : Word16} {data : List Byte} {i : Instr}
    (hi : i ∈ [Instr.eraseEe code tblpag offset data, .eraseEeForce code tblpag offset data,
      .programEe code tblpag offset data, .programEeForce code tblpag offset data]) (cut : CutPoint) (s : State) :
    ∃ program force, s.cutShort cut i = s.cutEe cut tblpag offset program force data := by
  simp only [List.mem_cons, List.not_mem_nil, or_false] at hi
  rcases hi with rfl | rfl | rfl | rfl <;> exact ⟨_, _, rfl⟩

/-- Power loss is a reset, with other bytes in the packet buffer, of the state it meets: the request the step would run is cut short
in the Connected mode, and nothing else has been written. -/
theorem powerLoss_cases (cut : CutPoint) (kept ram : List Byte) (s : State) :
    ∃ u buf, s.powerLoss cut kept ram = { u.restart kept with rxbuf := buf } ∧ buf.length = s.rxbuf.length ∧
      (u = s ∨ ∃ i, s.hs = true ∧ s.pendingRequest = some i ∧ u = s.cutShort cut i) := by
  refine ⟨_, _, rfl, by simp; omega, ?_⟩
  split
  · exact .inr ⟨_, ‹_›, ‹_›, rfl⟩
  · exact .inl rfl

/-- A call with force that is cut before its erase has only read (R162). -/
theorem row_cut_beforeErase {w : Nat} {c : ModifyCall w} {f : Flash w} (hrow : rowStated c.span c.units c.addr = true)
    (hforce : c.force = true) (hwf : f.cells.wf = true) : c.row (engineCut c .beforeErase f) = c.row f :=
  (engineStart_at hrow hwf rfl fun _ h => nomatch hforce.symm.trans h).region.row

/-- A call with force that is cut after a good erase leaves the row all-ones (R50, R163). -/
theorem row_cut_beforeWrite {w : Nat} {c : ModifyCall w} {f : Flash w} {later : List (CycleResult w)}
    (hrow : rowStated c.span c.units c.addr = true) (hforce : c.force = true) (hwf : f.cells.wf = true)
    (hscript : f.script = .good :: later) : c.row (engineCut c .beforeWrite f) = blankRow w (c.units / 2) :=
  have started := engineStart_at hrow hwf hscript fun _ h => nomatch hforce.symm.trans h
  (started.erase_good hrow (.inl hforce)).region.row

/-- Settles O43: a reset field by field, power loss by the request that it cuts short, and the row by the steps of the call. -/
theorem resetKeepsFlashAndClosesTheSession : Obligations.ResetKeepsFlashAndClosesTheSession := by
  refine ⟨fun kept s => ⟨rfl, rfl, rfl, rfl, rfl, rfl, rfl, rfl, rfl⟩, fun cut kept ram s hpm hee => ?powerLoss,
    fun w c f later hrow hwf hscript hforce =>
      ⟨row_cut_beforeErase hrow hforce hwf, row_cut_beforeWrite hrow hforce hwf hscript⟩⟩
  obtain ⟨u, buf, hloss, hbuf, rfl | ⟨i, hs, hreq, hu⟩⟩ := powerLoss_cases cut kept ram s
  · rw [hloss]
    exact ⟨rfl, rfl, rfl, rfl, rfl, rfl, hbuf, fun _ => ⟨rfl, rfl⟩, fun _ _ _ _ _ _ _ => ⟨rfl, fun _ _ => rfl⟩,
      fun _ _ _ _ _ _ _ => ⟨rfl, fun _ _ => rfl⟩⟩
  · rw [hloss]
    obtain ⟨pm, ee, flashOnly⟩ := cutShort_eq cut i s
    obtain ⟨htxs, hcfg, hpar⟩ : u.txs = s.txs ∧ u.cfg = s.cfg ∧ u.par = s.par := by simp [hu, flashOnly]
    refine ⟨rfl, rfl, rfl, htxs, hcfg, hpar, hbuf, ?idle, ?pm, ?ee⟩
    case idle =>
      rintro (hs' | hreq')
      · simp [hs] at hs'
      · simp [hreq] at hreq'
    case pm =>
      intro code tblpag offset data j hj hmem
      obtain rfl : i = j := Option.some.inj (hreq.symm.trans hj)
      obtain ⟨program, force, hcut⟩ := cutShort_pmCommand hmem cut s
      rw [hu, hcut]
      exact ⟨rfl, (engineCut_other (pmCall s (flashAddr tblpag offset) program force data) cut hpm).2⟩
    case ee =>
      intro code tblpag offset data j hj hmem
      obtain rfl : i = j := Option.some.inj (hreq.symm.trans hj)
      obtain ⟨program, force, hcut⟩ := cutShort_eeCommand hmem cut s
      rw [hu, hcut]
      exact ⟨rfl, (engineCut_other (eeCall s (flashAddr tblpag offset) program force data) cut hee).2⟩

end Sys2Proof.Machine
end
